-- ==== Sys2Proof/Word.lean ====
section
/-! DEFINITION. The plain words of the hardware: bytes, the 17-bit command word (R81), slot and channel
numbers (R12), and the three operations as the host names them (R80) and as they reach the unit (R81). -/

namespace Sys2Proof

/-- A register value or a register address: 8 bits unsigned (R10). -/
abbrev Byte := BitVec 8

/-- The command word of a WRITE: bank bit, address, data (R81). -/
abbrev CmdWord := BitVec 17

/-- An operator slot, 0 to 17 (R12). -/
abbrev Slot := Fin 18

/-- A channel, 0 to 8 (R12). -/
abbrev Channel := Fin 9

/-- An operation as the host issues it (R80). The operands are integers, so that one outside the operand
domain of R271 can be written down and is refused by name, never reduced modulo 256. -/
inductive HostOp where
  | write (bank addr data : Int)
  | tick
  | reset
  deriving DecidableEq, Repr

/-- An operation of the unit: a WRITE as its command word, or TICK or RESET, which have no bit pattern
(R81). -/
inductive Command where
  | write (w : CmdWord)
  | tick
  | reset
  deriving DecidableEq, Repr

/-- Which operand of a WRITE lies outside the domain of R271. -/
inductive OperandError where
  /-- The bank is no natural number. -/
  | negativeBank (bank : Int)
  /-- The address is no 8-bit value. -/
  | addrNotByte (addr : Int)
  /-- The data is no 8-bit value. -/
  | dataNotByte (data : Int)
  deriving DecidableEq, Repr

end Sys2Proof
end

