-- ==== Sys2Proof/Machine/Operands.lean ====
section
/-! DEFINITION. Operand forms: which slot an operator offset selects and back (R83), which channel a slot
belongs to (R12), and the fields each register's data byte carries (R87). -/

namespace Sys2Proof.Machine

/-- Slot s belongs to channel s >> 1 (R12). -/
def chanOf (s : Slot) : Channel := ⟨s.val / 2, by omega⟩

/-- A channel's operator 1, the modulator: slot 2c (R12). -/
def op1Of (c : Channel) : Slot := ⟨2 * c.val, by omega⟩

/-- A channel's operator 2, the carrier: slot 2c + 1 (R12). -/
def op2Of (c : Channel) : Slot := ⟨2 * c.val + 1, by omega⟩

/-- SLOT_OF (R83, closed form): with r = off[4:3] and j = off[2:0], the offset is valid iff r <= 2 and
j <= 5, and then it selects slot 2 * (3r + j mod 3) + j div 3. -/
def slotOf (off : BitVec 5) : Option Slot :=
  let r := off.toNat / 8
  let j := off.toNat % 8
  if h : r ≤ 2 ∧ j ≤ 5 then
    some ⟨2 * (3 * r + j % 3) + j / 3, by have := h.1; have := h.2; omega⟩
  else none

/-- OFF_OF (R83, R89): the offset whose slot is s. -/
def offOf (s : Slot) : BitVec 5 :=
  let c := s.val / 2
  BitVec.ofNat 5 (8 * (c / 3) + c % 3 + 3 * (s.val % 2))

/-- Channel c of a channel register's address, c = addr[3:0], if there is such a channel (R85 rows 14 to
20: c <= 8). -/
def channelOf (c : BitVec 4) : Option Channel :=
  if h : c.toNat < 9 then some ⟨c.toNat, h⟩ else none

/-- WSE of 0x01: bit 5 (R87, R140). -/
def fieldWse (v : Byte) : Bool := v.getLsbD 5

/-- IRQ-RESET of 0x04: bit 7 (R87, R143). -/
def fieldIrqReset (v : Byte) : Bool := v.getLsbD 7

/-- AM of 0x20 + off: bit 7 (R87, R100). -/
def fieldAm (v : Byte) : Bool := v.getLsbD 7

/-- VIB of 0x20 + off: bit 6 (R87, R100). -/
def fieldVib (v : Byte) : Bool := v.getLsbD 6

/-- EGT of 0x20 + off: bit 5 (R87, R100). -/
def fieldEgt (v : Byte) : Bool := v.getLsbD 5

/-- KSR of 0x20 + off: bit 4 (R87, R100). -/
def fieldKsr (v : Byte) : Bool := v.getLsbD 4

/-- MULT of 0x20 + off: bits 3..0 (R87, R100). -/
def fieldMult (v : Byte) : BitVec 4 := v.extractLsb' 0 4

/-- KSL of 0x40 + off: bits 7..6 (R87, R101). -/
def fieldKsl (v : Byte) : BitVec 2 := v.extractLsb' 6 2

/-- TL of 0x40 + off: bits 5..0 (R87, R101). -/
def fieldTl (v : Byte) : BitVec 6 := v.extractLsb' 0 6

/-- AR of 0x60 + off: bits 7..4 (R87, R102). -/
def fieldAr (v : Byte) : BitVec 4 := v.extractLsb' 4 4

/-- DR of 0x60 + off: bits 3..0 (R87, R102). -/
def fieldDr (v : Byte) : BitVec 4 := v.extractLsb' 0 4

/-- SL of 0x80 + off: bits 7..4 (R87, R103). -/
def fieldSl (v : Byte) : BitVec 4 := v.extractLsb' 4 4

/-- RR of 0x80 + off: bits 3..0 (R87, R103). -/
def fieldRr (v : Byte) : BitVec 4 := v.extractLsb' 0 4

/-- WS of 0xE0 + off: bits 1..0 (R87, R104). -/
def fieldWs (v : Byte) : BitVec 2 := v.extractLsb' 0 2

/-- KEY-ON of 0xB0 + c: bit 5 (R87, R121). -/
def fieldKeyOn (v : Byte) : Bool := v.getLsbD 5

/-- BLOCK[2:0] and FNUM[9:8] of 0xB0 + c as one field: bits 4..0, which become block_fnum[12:8] (R87,
R121). -/
def fieldBlockFnumHi (v : Byte) : BitVec 5 := v.extractLsb' 0 5

/-- FB of 0xC0 + c: bits 3..1 (R87, R124). -/
def fieldFb (v : Byte) : BitVec 3 := v.extractLsb' 1 3

/-- CON of 0xC0 + c: bit 0 (R87, R124). -/
def fieldCon (v : Byte) : Bool := v.getLsbD 0

/-- AM-DEPTH of 0xBD: bit 7 (R87, R145). -/
def fieldAmDepth (v : Byte) : Bool := v.getLsbD 7

/-- VIB-DEPTH of 0xBD: bit 6 (R87, R145). -/
def fieldPmDepth (v : Byte) : Bool := v.getLsbD 6

/-- RHYTHM of 0xBD: bit 5 (R87, R145). -/
def fieldRhythm (v : Byte) : Bool := v.getLsbD 5

/-- The five percussion key bits of 0xBD: BD, SD, TOM, TC, HH = bits 4..0 (R87, R145). -/
def fieldRkeys (v : Byte) : BitVec 5 := v.extractLsb' 0 5

/-- The percussion map of R146 and R230: a rhythm slot and the bit of 0xBD that keys it, in the order
R146 processes them (BD, BD, HH, SD, TOM, TC). -/
def rhythmKeyMap : List (Slot × Nat) := [(12, 4), (13, 4), (14, 0), (15, 3), (16, 2), (17, 1)]

end Sys2Proof.Machine
end

