-- ==== Sys2Proof/Config.lean ====
section
/-! DEFINITION. The four open parameters of the spec (R9). They are plain data that the state carries and no
operation changes, so a statement about every state is a statement about every value of them. -/

namespace Sys2Proof

/-- The named parameters of R9. Nothing is assumed of them beyond their types. -/
structure Config where
  /-- KSL_SHIFT: a shift amount for each value of the 2-bit KSL field (R257, D13). -/
  kslShift : Vector Nat 4
  /-- ALIAS_D0: registers 0xD0 to 0xD8 act as 0xC0 to 0xC8 (R85 rows 18 and 19, D12). -/
  aliasD0 : Bool
  /-- NOISE_MASK: the 24-bit XOR mask of the noise register (R163, D18). -/
  noiseMask : BitVec 24
  /-- NOISE_SEED: the reset value of the noise register, nonzero by its type in R9 (R291, D14). -/
  noiseSeed : BitVec 23
  deriving DecidableEq, Repr

/-- The part of the parameters' types that the Lean types do not carry: NOISE_SEED is nonzero (R9; DEDUCED, log
entry 17). -/
abbrev Config.wf (c : Config) : Prop := c.noiseSeed ≠ 0#23

/-- The defaults R9 recommends: KSL_SHIFT = [31, 2, 1, 0], ALIAS_D0 = true, NOISE_MASK = 0x800302,
NOISE_SEED = 1. -/
def Config.recommended : Config where
  kslShift := #v[31, 2, 1, 0]
  aliasD0 := true
  noiseMask := 0x800302#24
  noiseSeed := 1#23

end Sys2Proof
end

