-- ==== Sys2Proof/Machine/State.lean ====
section
/-! DEFINITION. The state of the unit as plain data (R22, R24, R26, R27), with the model's own host side beside
it, the reset values (R24, R26, R27, R290, R291), and the reasons a step can stop. -/

namespace Sys2Proof.Machine

/-- The envelope phase state, in the order OFF < REL < SUS < DEC < ATT of R27. -/
inductive EgPhase where
  | off
  | rel
  | sus
  | dec
  | att
  deriving DecidableEq, Repr

/-- An operator record OP[s] (R27). -/
structure Oper where
  /-- AM (tremolo) enable. -/
  am : Bool
  /-- Vibrato enable. -/
  vib : Bool
  /-- Envelope type: true sustained, false percussive. -/
  egt : Bool
  /-- Key scale rate select. -/
  ksr : Bool
  /-- Frequency multiplier index. -/
  mult : BitVec 4
  /-- Key scale level select. -/
  ksl : BitVec 2
  /-- Total level. -/
  tl : BitVec 6
  /-- Attack rate. -/
  ar : BitVec 4
  /-- Decay rate. -/
  dr : BitVec 4
  /-- Sustain level. -/
  sl : BitVec 4
  /-- Release rate. -/
  rr : BitVec 4
  /-- Waveform selector. -/
  ws : BitVec 2
  /-- Key latch: bit 0 melodic key, bit 1 rhythm key. -/
  key : BitVec 2
  /-- Envelope phase state. -/
  eg : EgPhase
  /-- Current attenuation, 0 to 511. -/
  vol : BitVec 9
  /-- Phase accumulator. -/
  cnt : BitVec 32
  /-- Feedback history: the output before the latest one, -4084 to 4084. -/
  o0 : Int
  /-- Feedback history: the latest output, -4084 to 4084. -/
  o1 : Int
  deriving DecidableEq, Repr

/-- A channel record CH[c] (R26). -/
structure Chan where
  /-- (block[2:0], fnum[9:0]). -/
  blockFnum : BitVec 13
  /-- Key code latched at the last change of `blockFnum`. -/
  kcode : BitVec 4
  /-- Feedback amount of operator 1. -/
  fb : BitVec 3
  /-- Connection: false serial, true parallel. -/
  con : Bool
  deriving DecidableEq, Repr

/-- The global record G (R24). -/
structure Glob where
  /-- Waveform-select enable latch. -/
  wavesel : Bool
  /-- Timer 1 preset. -/
  t1 : Byte
  /-- Timer 2 preset. -/
  t2 : Byte
  /-- Timer masks (bits 6, 5) and start bits (bits 1, 0). -/
  tctl : Byte
  /-- Timer status flags IRQ, FT1, FT2. -/
  status : BitVec 3
  /-- Bit 7 CSM, bit 6 NOTE-SEL, bits 5..0 no effect. -/
  mode : Byte
  /-- AM depth select. -/
  amDepth : Bool
  /-- Vibrato depth select. -/
  pmDepth : Bool
  /-- Rhythm-mode flag. -/
  rhythm : Bool
  /-- Last percussion key bits written (BD, SD, TOM, TC, HH = bits 4..0). -/
  rkeys : BitVec 5
  /-- Shared envelope counter. -/
  egCnt : BitVec 32
  /-- AM LFO position in ticks, 0 to 13439. -/
  amCnt : Fin 13440
  /-- Vibrato LFO position in ticks. -/
  pmCnt : BitVec 13
  /-- Noise shift register. -/
  noise : BitVec 23
  deriving DecidableEq, Repr

/-- The result of a TICK: two signed 16-bit integers, as numbers (R61, R160). -/
structure Stereo where
  left : Int
  right : Int
  deriving DecidableEq, Repr

/-- The state of the machine. `g`, `ch` and `op` are the unit (R22); `cfg` holds the parameters of R9, which
no operation changes; `pending` and `observed` are the host's side of the boundary (DESIGN CHOICE, log entries
1 to 3): the operations issued and not yet performed, oldest first, and the pairs the TICKs returned, oldest
first (the observation of R309). -/
structure State where
  cfg : Config
  g : Glob
  ch : Vector Chan 9
  op : Vector Oper 18
  pending : List HostOp
  observed : List Stereo
  deriving DecidableEq, Repr

/-- Why the machine would stop with a fault. Nobody raises one: the type has no constructor, because every
operation of the unit is total (R270, R283). -/
inductive Fault
  deriving DecidableEq, Repr

/-- Why a step has no meaning. -/
inductive Refusal where
  /-- Raised by an arm of `exec` for an instruction without a meaning; safe. No arm of this model raises it. -/
  | notModelled (mnemonic : String)
  /-- Raised by the transcriber in `step` for a WRITE whose operands lie outside the domain of R271, which is
  no operation of the unit; safe (the spec itself refuses it by name). -/
  | outsideDomain (e : OperandError)
  deriving DecidableEq, Repr

/-- The reset column of R27: every field 0 but `eg` = OFF and `vol` = 511. -/
def Oper.reset : Oper where
  am := false
  vib := false
  egt := false
  ksr := false
  mult := 0#4
  ksl := 0#2
  tl := 0#6
  ar := 0#4
  dr := 0#4
  sl := 0#4
  rr := 0#4
  ws := 0#2
  key := 0#2
  eg := .off
  vol := 511#9
  cnt := 0#32
  o0 := 0
  o1 := 0

/-- The reset column of R26: every field 0. -/
def Chan.reset : Chan where
  blockFnum := 0#13
  kcode := 0#4
  fb := 0#3
  con := false

/-- The reset column of R24: every field 0 but `noise` = NOISE_SEED. -/
def Glob.reset (cfg : Config) : Glob where
  wavesel := false
  t1 := 0#8
  t2 := 0#8
  tctl := 0#8
  status := 0#3
  mode := 0#8
  amDepth := false
  pmDepth := false
  rhythm := false
  rkeys := 0#5
  egCnt := 0#32
  amCnt := 0
  pmCnt := 0#13
  noise := cfg.noiseSeed

/-- The unit's fields at their reset values, the rest of the state kept (R290). -/
def State.withUnitReset (s : State) : State :=
  { s with
    g := Glob.reset s.cfg
    ch := Vector.replicate 9 Chan.reset
    op := Vector.replicate 18 Oper.reset }

/-- The machine right after reset, which is also its state when it is created (R290, R293), under the
recommended parameters, with no operation issued and nothing observed. -/
def State.reset : State where
  cfg := Config.recommended
  g := Glob.reset Config.recommended
  ch := Vector.replicate 9 Chan.reset
  op := Vector.replicate 18 Oper.reset
  pending := []
  observed := []

end Sys2Proof.Machine
end

