-- ==== Sys2Proof/Machine/Ops.lean ====
section
/-! DEFINITION. The named operations over the registers: reading and updating an operator, a channel or the
global record; KEY_ON, KEY_OFF and FREQ_UPDATE (R125, R126, R122); the effect of an ignored write (R86). The
hardware takes no exception and returns from none (R270, R274, R275), so no such operation stands here. -/

namespace Sys2Proof.Machine

/-- OP[i]. -/
def State.oper (s : State) (i : Slot) : Oper := s.op[i.val]

/-- CH[c]. -/
def State.chan (s : State) (c : Channel) : Chan := s.ch[c.val]

/-- The channel record of slot i (R12). -/
def State.chanAt (s : State) (i : Slot) : Chan := s.chan (chanOf i)

/-- OP[i] <- f OP[i]. -/
def State.modOper (s : State) (i : Slot) (f : Oper → Oper) : State :=
  { s with op := s.op.set i.val (f (s.oper i)) }

/-- CH[c] <- f CH[c]. -/
def State.modChan (s : State) (c : Channel) (f : Chan → Chan) : State :=
  { s with ch := s.ch.set c.val (f (s.chan c)) }

/-- G <- f G. -/
def State.modGlob (s : State) (f : Glob → Glob) : State := { s with g := f s.g }

/-- Every OP[i] <- f i OP[i], for an `f` that reads no other operator. -/
def State.mapOper (s : State) (f : Slot → Oper → Oper) : State :=
  { s with op := Vector.ofFn fun i => f i (s.oper i) }

/-- The rank of an envelope phase in the order OFF < REL < SUS < DEC < ATT (R27). -/
def egRank : EgPhase → Nat
  | .off => 0
  | .rel => 1
  | .sus => 2
  | .dec => 3
  | .att => 4

/-- The key-latch bit of a melodic key, from 0xB0 + c (R125: b = 1). -/
def melodicKey : BitVec 2 := 1#2

/-- The key-latch bit of a rhythm key, from 0xBD (R125: b = 2). -/
def rhythmKey : BitVec 2 := 2#2

/-- KEY_ON(s, b) (R125): a latch that was 0 restarts the phase generator and enters Attack; the attenuation
is not changed. -/
def keyOn (b : BitVec 2) (o : Oper) : Oper :=
  let o' := if o.key = 0#2 then { o with cnt := 0#32, eg := .att } else o
  { o' with key := o'.key ||| b }

/-- KEY_OFF(s, b) (R126): an operator whose latch becomes 0 in ATT, DEC or SUS moves to REL. -/
def keyOff (b : BitVec 2) (o : Oper) : Oper :=
  if o.key = 0#2 then o
  else
    let key' := o.key &&& ~~~b
    if key' = 0#2 ∧ egRank .rel < egRank o.eg then { o with key := key', eg := .rel }
    else { o with key := key' }

/-- KEY_ON or KEY_OFF of one latch bit, as a key bit says (R121, R146). -/
def keyTo (on : Bool) (b : BitVec 2) (o : Oper) : Oper := if on then keyOn b o else keyOff b o

/-- The key code latched for a block/fnum value (R122): block, then fnum[8] while NOTE-SEL (mode bit 6) is
set, else fnum[9]. -/
def keyCode (mode : Byte) (bf : BitVec 13) : BitVec 4 :=
  (bf.extractLsb' 10 3 ++
    BitVec.ofBool (if mode.getLsbD 6 then bf.getLsbD 8 else bf.getLsbD 9)).cast rfl

/-- FREQ_UPDATE(c, nbf) (R122): only a changed value is stored and relatches the key code. -/
def freqUpdate (mode : Byte) (nbf : BitVec 13) (c : Chan) : Chan :=
  if nbf = c.blockFnum then c else { c with blockFnum := nbf, kcode := keyCode mode nbf }

/-- The effect of an ignored write: no state changes (R84, R86, R147). -/
def ignoreWrite (s : State) : State := s

end Sys2Proof.Machine
end

