-- ==== Sys2Proof/Machine/Channel.lean ====
section
/-! DEFINITION. The meanings of the channel parameter writes (R120, R121, R124). -/

namespace Sys2Proof.Machine

open Host (Outcome)

/-- block_fnum with bits 7..0 replaced by a byte (R120). -/
def setFnumLow (v : Byte) (bf : BitVec 13) : BitVec 13 := (bf.extractLsb' 8 5 ++ v).cast rfl

/-- block_fnum with bits 12..8 replaced by bits 4..0 of a byte (R121). -/
def setBlockFnumHigh (v : Byte) (bf : BitVec 13) : BitVec 13 :=
  (fieldBlockFnumHi v ++ bf.extractLsb' 0 8).cast rfl

/-- WR_FNUML (R120): block_fnum[7:0]. -/
def execWrFnuml (c : Channel) (v : Byte) (s : State) : Outcome State Fault Refusal :=
  .next (s.modChan c fun ch => freqUpdate s.g.mode (setFnumLow v ch.blockFnum) ch)

/-- WR_KBF (R121): the key action on both slots of the channel, then block_fnum[12:8]. -/
def execWrKbf (c : Channel) (v : Byte) (s : State) : Outcome State Fault Refusal :=
  let key := keyTo (fieldKeyOn v) melodicKey
  .next (((s.modOper (op1Of c) key).modOper (op2Of c) key).modChan c fun ch =>
    freqUpdate s.g.mode (setBlockFnumHigh v ch.blockFnum) ch)

/-- FB and CON of a channel (R124). -/
def setFbCon (v : Byte) (ch : Chan) : Chan := { ch with fb := fieldFb v, con := fieldCon v }

/-- WR_FBCON (R124), at 0xC0 + c. -/
def execWrFbcon (c : Channel) (v : Byte) (s : State) : Outcome State Fault Refusal :=
  .next (s.modChan c (setFbCon v))

/-- WR_FBCON_ALIAS (R124), at 0xD0 + c; decoded only while ALIAS_D0 = true (R85 row 18). -/
def execWrFbconAlias (c : Channel) (v : Byte) (s : State) : Outcome State Fault Refusal :=
  .next (s.modChan c (setFbCon v))

end Sys2Proof.Machine
end

