-- ==== Sys2Proof/Machine/Flags.lean ====
section
/-! DEFINITION. The only flag-like state of the unit: the timer status and the timer control latch (R25). No other
operation computes, sets or reads a flag. -/

namespace Sys2Proof.Machine

/-- The bits of 0x04 that G.tctl keeps: T1-MASK (6), T2-MASK (5), ST2 (1), ST1 (0) (R143). -/
def tctlMask : Byte := 0x63#8

/-- WR_TCTL on the global record (R143): IRQ-RESET clears the status flags and leaves `tctl`; any other value
is stored under the mask. -/
def timerControl (v : Byte) (g : Glob) : Glob :=
  if fieldIrqReset v then { g with status := 0#3 } else { g with tctl := v &&& tctlMask }

end Sys2Proof.Machine
end

