-- ==== Sys2Proof/Machine/Global.lean ====
section
/-! DEFINITION. The meanings of the global register writes (R140 to R146). -/

namespace Sys2Proof.Machine

open Host (Outcome)

/-- WR_TEST (R140): only bit 5 is read; no waveform already set changes. -/
def execWrTest (v : Byte) (s : State) : Outcome State Fault Refusal :=
  .next (s.modGlob fun g => { g with wavesel := fieldWse v })

/-- WR_T1 (R141). -/
def execWrT1 (v : Byte) (s : State) : Outcome State Fault Refusal :=
  .next (s.modGlob fun g => { g with t1 := v })

/-- WR_T2 (R142). -/
def execWrT2 (v : Byte) (s : State) : Outcome State Fault Refusal :=
  .next (s.modGlob fun g => { g with t2 := v })

/-- WR_TCTL (R143). -/
def execWrTctl (v : Byte) (s : State) : Outcome State Fault Refusal :=
  .next (s.modGlob (timerControl v))

/-- WR_MODE (R144): no key code is recomputed. -/
def execWrMode (v : Byte) (s : State) : Outcome State Fault Refusal :=
  .next (s.modGlob fun g => { g with mode := v })

/-- WR_RHY, field part (R145). -/
def rhythmFields (v : Byte) (g : Glob) : Glob :=
  { g with
    amDepth := fieldAmDepth v
    pmDepth := fieldPmDepth v
    rhythm := fieldRhythm v
    rkeys := fieldRkeys v }

/-- WR_RHY, key part (R146): each percussion bit keys its operator through latch bit 1, and with rhythm off
all six rhythm keys are cleared. -/
def rhythmKeys (v : Byte) (s : State) : State :=
  rhythmKeyMap.foldl
    (fun s p => s.modOper p.1 (keyTo (fieldRhythm v && v.getLsbD p.2) rhythmKey)) s

/-- WR_RHY (R145, then R146 in the same WRITE). -/
def execWrRhy (v : Byte) (s : State) : Outcome State Fault Refusal :=
  .next (rhythmKeys v (s.modGlob (rhythmFields v)))

end Sys2Proof.Machine
end

