-- ==== Sys2Proof/Machine/Ignored.lean ====
section
/-! DEFINITION. The meanings of the ignored writes: accepted, and no state changes (R84, R86, R147). -/

namespace Sys2Proof.Machine

open Host (Outcome)

/-- IGNORED_GLOBAL (R85 row 6). -/
def execIgnoredGlobal (_a : BitVec 5) (_v : Byte) (s : State) : Outcome State Fault Refusal :=
  .next (ignoreWrite s)

/-- IGNORED_OFF_20 (R85 row 12). -/
def execIgnoredOff20 (_off : BitVec 5) (_v : Byte) (s : State) : Outcome State Fault Refusal :=
  .next (ignoreWrite s)

/-- IGNORED_OFF_40 (R85 row 12). -/
def execIgnoredOff40 (_off : BitVec 5) (_v : Byte) (s : State) : Outcome State Fault Refusal :=
  .next (ignoreWrite s)

/-- IGNORED_OFF_60 (R85 row 12). -/
def execIgnoredOff60 (_off : BitVec 5) (_v : Byte) (s : State) : Outcome State Fault Refusal :=
  .next (ignoreWrite s)

/-- IGNORED_OFF_80 (R85 row 12). -/
def execIgnoredOff80 (_off : BitVec 5) (_v : Byte) (s : State) : Outcome State Fault Refusal :=
  .next (ignoreWrite s)

/-- IGNORED_OFF_E0 (R85 row 12). -/
def execIgnoredOffE0 (_off : BitVec 5) (_v : Byte) (s : State) : Outcome State Fault Refusal :=
  .next (ignoreWrite s)

/-- IGNORED_CH_AB (R85 row 16). -/
def execIgnoredChAb (_x : Bool) (_c : BitVec 4) (_v : Byte) (s : State) :
    Outcome State Fault Refusal :=
  .next (ignoreWrite s)

/-- IGNORED_CH_CD (R85 rows 19 and 20). -/
def execIgnoredChCd (_x : Bool) (_c : BitVec 4) (_v : Byte) (s : State) :
    Outcome State Fault Refusal :=
  .next (ignoreWrite s)

/-- IGNORED_BANK (R84). -/
def execIgnoredBank (_addr _v : Byte) (s : State) : Outcome State Fault Refusal :=
  .next (ignoreWrite s)

end Sys2Proof.Machine
end

