-- ==== Sys2Proof/Machine/Operator.lean ====
section
/-! DEFINITION. The meanings of the operator parameter writes (R100 to R104). -/

namespace Sys2Proof.Machine

open Host (Outcome)

/-- WR_AVEKM (R100): AM, vibrato, envelope type, key scale rate, multiplier. -/
def execWrAvekm (i : Slot) (v : Byte) (s : State) : Outcome State Fault Refusal :=
  .next (s.modOper i fun o =>
    { o with
      am := fieldAm v
      vib := fieldVib v
      egt := fieldEgt v
      ksr := fieldKsr v
      mult := fieldMult v })

/-- WR_KSLTL (R101): key scale level, total level. -/
def execWrKsltl (i : Slot) (v : Byte) (s : State) : Outcome State Fault Refusal :=
  .next (s.modOper i fun o => { o with ksl := fieldKsl v, tl := fieldTl v })

/-- WR_ARDR (R102): attack rate, decay rate. -/
def execWrArdr (i : Slot) (v : Byte) (s : State) : Outcome State Fault Refusal :=
  .next (s.modOper i fun o => { o with ar := fieldAr v, dr := fieldDr v })

/-- WR_SLRR (R103): sustain level, release rate. -/
def execWrSlrr (i : Slot) (v : Byte) (s : State) : Outcome State Fault Refusal :=
  .next (s.modOper i fun o => { o with sl := fieldSl v, rr := fieldRr v })

/-- WR_WS (R104): only while the waveform-select latch is set, else no effect. -/
def execWrWs (i : Slot) (v : Byte) (s : State) : Outcome State Fault Refusal :=
  .next (if s.g.wavesel then s.modOper i fun o => { o with ws := fieldWs v } else s)

end Sys2Proof.Machine
end

