-- ==== Sys2Proof/Machine/Reset.lean ====
section
/-! DEFINITION. The meaning of RESET (R290). -/

namespace Sys2Proof.Machine

open Host (Outcome)

/-- RESET (R290): every field of G, CH and OP to its reset value; nothing else of the state is the
unit's (DEDUCED, log entry 16). -/
def execReset (s : State) : Outcome State Fault Refusal := .next s.withUnitReset

end Sys2Proof.Machine
end

