-- ==== Sys2Proof/Machine/Tables.lean ====
section
/-! DEFINITION. The constant tables of 48_rom_tables.md (R250 to R265), as literals in rows of the length the
spec prints them in. Every index the rules use lies inside its table (Sys2Proof/Laws/Tables.lean). -/

namespace Sys2Proof.Machine

/-- Entry `i` of a table printed `width` entries a row; 0 outside the table, where no rule reads (DESIGN CHOICE,
log entry 8). -/
def tableAt (rows : List (List Nat)) (width i : Nat) : Nat := (rows.getD (i / width) []).getD (i % width) 0

/-- TLBASE, 16 a row (R264). -/
def tlBaseRows : List (List Nat) :=
  [
   [4084, 4074, 4062, 4052, 4040, 4030, 4020, 4008, 3998, 3986, 3976, 3966, 3954, 3944, 3932, 3922],
   [3912, 3902, 3890, 3880, 3870, 3860, 3848, 3838, 3828, 3818, 3808, 3796, 3786, 3776, 3766, 3756],
   [3746, 3736, 3726, 3716, 3706, 3696, 3686, 3676, 3666, 3656, 3646, 3636, 3626, 3616, 3606, 3596],
   [3588, 3578, 3568, 3558, 3548, 3538, 3530, 3520, 3510, 3500, 3492, 3482, 3472, 3464, 3454, 3444],
   [3434, 3426, 3416, 3408, 3398, 3388, 3380, 3370, 3362, 3352, 3344, 3334, 3326, 3316, 3308, 3298],
   [3290, 3280, 3272, 3262, 3254, 3246, 3236, 3228, 3218, 3210, 3202, 3192, 3184, 3176, 3168, 3158],
   [3150, 3142, 3132, 3124, 3116, 3108, 3100, 3090, 3082, 3074, 3066, 3058, 3050, 3040, 3032, 3024],
   [3016, 3008, 3000, 2992, 2984, 2976, 2968, 2960, 2952, 2944, 2936, 2928, 2920, 2912, 2904, 2896]] ++
  [
   [2888, 2880, 2872, 2866, 2858, 2850, 2842, 2834, 2826, 2818, 2812, 2804, 2796, 2788, 2782, 2774],
   [2766, 2758, 2752, 2744, 2736, 2728, 2722, 2714, 2706, 2700, 2692, 2684, 2678, 2670, 2664, 2656],
   [2648, 2642, 2634, 2628, 2620, 2614, 2606, 2600, 2592, 2584, 2578, 2572, 2564, 2558, 2550, 2544],
   [2536, 2530, 2522, 2516, 2510, 2502, 2496, 2488, 2482, 2476, 2468, 2462, 2456, 2448, 2442, 2436],
   [2428, 2422, 2416, 2410, 2402, 2396, 2390, 2384, 2376, 2370, 2364, 2358, 2352, 2344, 2338, 2332],
   [2326, 2320, 2314, 2308, 2300, 2294, 2288, 2282, 2276, 2270, 2264, 2258, 2252, 2246, 2240, 2234],
   [2228, 2222, 2216, 2210, 2204, 2198, 2192, 2186, 2180, 2174, 2168, 2162, 2156, 2150, 2144, 2138],
   [2132, 2128, 2122, 2116, 2110, 2104, 2098, 2092, 2088, 2082, 2076, 2070, 2064, 2060, 2054, 2048]]

/-- TLBASE[x], x in 0..255 (R264). -/
def tlBase (x : Nat) : Nat := tableAt tlBaseRows 16 x

/-- SINMAG, 16 a row (R265). -/
def sinMagRows : List (List Nat) :=
  [
   [2137, 1731, 1543, 1419, 1326, 1252, 1190, 1137, 1091, 1050, 1013, 979, 949, 920, 894, 869],
   [846, 825, 804, 785, 767, 749, 732, 717, 701, 687, 672, 659, 646, 633, 621, 609],
   [598, 587, 576, 566, 556, 546, 536, 527, 518, 509, 501, 492, 484, 476, 468, 461],
   [453, 446, 439, 432, 425, 418, 411, 405, 399, 392, 386, 380, 375, 369, 363, 358],
   [352, 347, 341, 336, 331, 326, 321, 316, 311, 307, 302, 297, 293, 289, 284, 280],
   [276, 271, 267, 263, 259, 255, 251, 248, 244, 240, 236, 233, 229, 226, 222, 219],
   [215, 212, 209, 205, 202, 199, 196, 193, 190, 187, 184, 181, 178, 175, 172, 169],
   [167, 164, 161, 159, 156, 153, 151, 148, 146, 143, 141, 138, 136, 134, 131, 129]] ++
  [
   [127, 125, 122, 120, 118, 116, 114, 112, 110, 108, 106, 104, 102, 100, 98, 96],
   [94, 92, 91, 89, 87, 85, 83, 82, 80, 78, 77, 75, 74, 72, 70, 69],
   [67, 66, 64, 63, 62, 60, 59, 57, 56, 55, 53, 52, 51, 49, 48, 47],
   [46, 45, 43, 42, 41, 40, 39, 38, 37, 36, 35, 34, 33, 32, 31, 30],
   [29, 28, 27, 26, 25, 24, 23, 23, 22, 21, 20, 20, 19, 18, 17, 17],
   [16, 15, 15, 14, 13, 13, 12, 12, 11, 10, 10, 9, 9, 8, 8, 7],
   [7, 7, 6, 6, 5, 5, 5, 4, 4, 4, 3, 3, 3, 2, 2, 2],
   [2, 1, 1, 1, 1, 1, 1, 1, 0, 0, 0, 0, 0, 0, 0, 0]]

/-- SINMAG[q], q in 0..255: the quarter-wave log-sine magnitude (R265). -/
def sinMag (q : Nat) : Nat := tableAt sinMagRows 16 q

/-- TL_TAB_LEN, the size of TLTAB's domain (R253). -/
def tlTabLen : Nat := 6144

/-- ENV_QUIET, the attenuation from which an operator is silent (R254). -/
def envQuiet : Nat := 384

/-- MAX_ATT, the largest envelope attenuation (R255). -/
def maxAtt : Nat := 511

/-- S0(i), i in 0..1023: the log-sine attenuation with the sign of the sine in bit 0 (R251). -/
def s0 (i : Nat) : Nat :=
  let j := i % 512
  let q := if j < 256 then j else 511 - j
  2 * sinMag q + (if 512 ≤ i then 1 else 0)

/-- SINTAB(w, i) for waveform w and i in 0..1023 (R251): sine, half-sine, absolute sine, quarter-sine
pulses. -/
def sinTab (w : BitVec 2) (i : Nat) : Nat :=
  if w = 0#2 then s0 i
  else if w = 1#2 then (if i / 512 % 2 = 1 then tlTabLen else s0 i)
  else if w = 2#2 then s0 (i % 512)
  else (if i / 256 % 2 = 1 then tlTabLen else s0 (i % 256))

/-- TLTAB(p), 0 <= p < 6144: the linear value of a log attenuation (R252). -/
def tlTab (p : Nat) : Int :=
  let v : Int := (tlBase (p % 512 / 2) >>> (p / 512) : Nat)
  if p % 2 = 1 then -v else v

/-- MUL_TAB, twice the nominal multiple (R256). -/
def mulTab (mult : BitVec 4) : Nat :=
  [1, 2, 4, 6, 8, 10, 12, 14, 16, 18, 20, 20, 24, 24, 30, 30].getD mult.toNat 0

/-- KSL_TAB, row = block, column = fnum[9:6] (R258). -/
def kslRows : List (List Nat) :=
  [
   [0, 0, 0, 0, 0, 0, 0, 0, 0, 0, 0, 0, 0, 0, 0, 0],
   [0, 0, 0, 0, 0, 0, 0, 0, 0, 8, 12, 16, 20, 24, 28, 32],
   [0, 0, 0, 0, 0, 12, 20, 28, 32, 40, 44, 48, 52, 56, 60, 64],
   [0, 0, 0, 20, 32, 44, 52, 60, 64, 72, 76, 80, 84, 88, 92, 96]] ++
  [
   [0, 0, 32, 52, 64, 76, 84, 92, 96, 104, 108, 112, 116, 120, 124, 128],
   [0, 32, 64, 84, 96, 108, 116, 124, 128, 136, 140, 144, 148, 152, 156, 160],
   [0, 64, 96, 116, 128, 140, 148, 156, 160, 168, 172, 176, 180, 184, 188, 192],
   [0, 96, 128, 148, 160, 172, 180, 188, 192, 200, 204, 208, 212, 216, 220, 224]]

/-- KSL_TAB[i], i in 0..127 (R258). -/
def kslTab (i : Nat) : Nat := tableAt kslRows 16 i

/-- SL_TAB[sl] (R259). -/
def slTab (sl : BitVec 4) : Nat := if sl = 15#4 then 496 else 16 * sl.toNat

/-- EG_INC, rows 0 to 14 of 8 steps (R260). -/
def egIncRows : List (List Nat) :=
  [
   [0, 1, 0, 1, 0, 1, 0, 1],
   [0, 1, 0, 1, 1, 1, 0, 1],
   [0, 1, 1, 1, 0, 1, 1, 1],
   [0, 1, 1, 1, 1, 1, 1, 1],
   [1, 1, 1, 1, 1, 1, 1, 1],
   [1, 1, 1, 2, 1, 1, 1, 2],
   [1, 2, 1, 2, 1, 2, 1, 2],
   [1, 2, 2, 2, 1, 2, 2, 2],
   [2, 2, 2, 2, 2, 2, 2, 2],
   [2, 2, 2, 4, 2, 2, 2, 4],
   [2, 4, 2, 4, 2, 4, 2, 4],
   [2, 4, 4, 4, 2, 4, 4, 4],
   [4, 4, 4, 4, 4, 4, 4, 4],
   [8, 8, 8, 8, 8, 8, 8, 8],
   [0, 0, 0, 0, 0, 0, 0, 0]]

/-- EG_INC[row][k], row in 0..14, k in 0..7 (R260). -/
def egInc (row k : Nat) : Nat := (egIncRows.getD row []).getD k 0

/-- RATE_SHIFT[idx], idx in 0..91 (R261). -/
def rateShift (idx : Nat) : Nat := if 16 ≤ idx ∧ idx ≤ 67 then 12 - (idx - 16) / 4 else 0

/-- RATE_ROW[idx], idx in 0..91 (R261). -/
def rateRow (idx : Nat) : Nat :=
  if idx ≤ 15 then 14
  else if idx ≤ 67 then (idx - 16) % 4
  else if idx ≤ 71 then 4 + (idx - 68)
  else if idx ≤ 75 then 8 + (idx - 72)
  else 12

/-- AM_TAB, 15 a row (R262). -/
def amRows : List (List Nat) :=
  [
   [0, 0, 0, 0, 0, 0, 0, 1, 1, 1, 1, 2, 2, 2, 2],
   [3, 3, 3, 3, 4, 4, 4, 4, 5, 5, 5, 5, 6, 6, 6],
   [6, 7, 7, 7, 7, 8, 8, 8, 8, 9, 9, 9, 9, 10, 10],
   [10, 10, 11, 11, 11, 11, 12, 12, 12, 12, 13, 13, 13, 13, 14],
   [14, 14, 14, 15, 15, 15, 15, 16, 16, 16, 16, 17, 17, 17, 17],
   [18, 18, 18, 18, 19, 19, 19, 19, 20, 20, 20, 20, 21, 21, 21],
   [21, 22, 22, 22, 22, 23, 23, 23, 23, 24, 24, 24, 24, 25, 25]] ++
  [
   [25, 25, 26, 26, 26, 25, 25, 25, 25, 24, 24, 24, 24, 23, 23],
   [23, 23, 22, 22, 22, 22, 21, 21, 21, 21, 20, 20, 20, 20, 19],
   [19, 19, 19, 18, 18, 18, 18, 17, 17, 17, 17, 16, 16, 16, 16],
   [15, 15, 15, 15, 14, 14, 14, 14, 13, 13, 13, 13, 12, 12, 12],
   [12, 11, 11, 11, 11, 10, 10, 10, 10, 9, 9, 9, 9, 8, 8],
   [8, 8, 7, 7, 7, 7, 6, 6, 6, 6, 5, 5, 5, 5, 4],
   [4, 4, 4, 3, 3, 3, 3, 2, 2, 2, 2, 1, 1, 1, 1]]

/-- AM_TAB[k], k in 0..209 (R262). -/
def amTab (k : Nat) : Nat := tableAt amRows 15 k

/-- PM_TAB with pm_depth = 0, row f = fnum[9:7] (R263). -/
def pmShallowRows : List (List Int) :=
  [
   [0, 0, 0, 0, 0, 0, 0, 0],
   [0, 0, 0, 0, 0, 0, 0, 0],
   [1, 0, 0, 0, -1, 0, 0, 0],
   [1, 0, 0, 0, -1, 0, 0, 0],
   [2, 1, 0, -1, -2, -1, 0, 1],
   [2, 1, 0, -1, -2, -1, 0, 1],
   [3, 1, 0, -1, -3, -1, 0, 1],
   [3, 1, 0, -1, -3, -1, 0, 1]]

/-- PM_TAB with pm_depth = 1, row f = fnum[9:7] (R263). -/
def pmDeepRows : List (List Int) :=
  [
   [0, 0, 0, 0, 0, 0, 0, 0],
   [1, 0, 0, 0, -1, 0, 0, 0],
   [2, 1, 0, -1, -2, -1, 0, 1],
   [3, 1, 0, -1, -3, -1, 0, 1],
   [4, 2, 0, -2, -4, -2, 0, 2],
   [5, 2, 0, -2, -5, -2, 0, 2],
   [6, 3, 0, -3, -6, -3, 0, 3],
   [7, 3, 0, -3, -7, -3, 0, 3]]

/-- PM_TAB[f][d][k], f and k in 0..7 (R263). -/
def pmTab (f : Nat) (deep : Bool) (k : Nat) : Int :=
  (((if deep then pmDeepRows else pmShallowRows).getD f []).getD k 0)

end Sys2Proof.Machine
end

