-- ==== Sys2Proof/Machine/Derived.lean ====
section
/-! DEFINITION. The derived values of R30 to R35, as functions of the stored fields (R36). Each takes the records
it reads: the operator's own and its channel's. -/

namespace Sys2Proof.Machine

/-- MUL(s) (R30). -/
def mulOf (o : Oper) : Nat := mulTab o.mult

/-- FC(bf) = bf[9:0] << (5 + bf[12:10]); bits above bit 12 are ignored (R31). -/
def fc (bf : Nat) : Nat := (bf % 1024) <<< (5 + bf / 1024 % 8)

/-- INCR(s) (R32). -/
def incrOf (c : Chan) (o : Oper) : Nat := fc c.blockFnum.toNat * mulOf o

/-- KSRV(s): the whole key code with KSR set, its top two bits with KSR clear (R33). -/
def ksrv (c : Chan) (o : Oper) : Nat := c.kcode.toNat >>> (if o.ksr then 0 else 2)

/-- KSL_BASE(c): KSL_TAB at (block, fnum[9:6]) (R34). -/
def kslBase (c : Chan) : Nat := kslTab (c.blockFnum.toNat >>> 6)

/-- KSL_SHIFT[ksl] (R9, R257). -/
def kslShiftOf (cfg : Config) (ksl : BitVec 2) : Nat := cfg.kslShift[ksl.toNat]

/-- TLL(s): total level with key scaling, in attenuation units (R34). -/
def tll (cfg : Config) (c : Chan) (o : Oper) : Nat :=
  4 * o.tl.toNat + kslBase c >>> kslShiftOf cfg o.ksl

/-- SLV(s): the sustain level in attenuation units (R35). -/
def slv (o : Oper) : Nat := slTab o.sl

end Sys2Proof.Machine
end

