-- ==== Sys2Proof/Machine/Envelope.lean ====
section
/-! DEFINITION. TICK step 2: the shared envelope counter, the rate lookup and the envelope FSM of every operator
(R181 to R188). -/

namespace Sys2Proof.Machine

/-- A shift/selector pair (R182). -/
structure RatePair where
  shift : Nat
  row : Nat
  deriving DecidableEq, Repr

/-- The rate field of a phase: AR, DR, and RR for SUS and REL (R182). OFF has none (R187). -/
def rateField (o : Oper) : EgPhase → Option (BitVec 4)
  | .att => some o.ar
  | .dec => some o.dr
  | .sus => some o.rr
  | .rel => some o.rr
  | .off => none

/-- The rate index of a rate field and a rate-scaling value: (R = 0 ? 0 : 16 + 4R) + KSRV (R182). -/
def rateIndex (r : BitVec 4) (k : Nat) : Nat := (if r = 0#4 then 0 else 16 + 4 * r.toNat) + k

/-- EGRATE(s, p) (R182), with the instant attack at index 78 and above. -/
def egRate (c : Chan) (o : Oper) (p : EgPhase) : Option RatePair :=
  match rateField o p with
  | none => none
  | some r =>
    let idx := rateIndex r (ksrv c o)
    if p = .att ∧ 78 ≤ idx then some ⟨0, 13⟩ else some ⟨rateShift idx, rateRow idx⟩

/-- STEP_DUE(s, p) at envelope counter `n` (R182): the increment, or none where no step is due. -/
def stepDue (n : BitVec 32) (c : Chan) (o : Oper) (p : EgPhase) : Option Nat :=
  match egRate c o p with
  | none => none
  | some pr =>
    if n.toNat % 2 ^ pr.shift = 0 then some (egInc pr.row (n.toNat / 2 ^ pr.shift % 8)) else none

/-- The attenuation an attack step computes: vol + ((~vol * inc) >> 3), signed with an arithmetic shift
(R183). -/
def attackLevel (vol inc : Nat) : Int := vol + ((-(vol : Int) - 1) * inc) / 8

/-- EG_STEP in ATT (R183). -/
def egAttack (n : BitVec 32) (c : Chan) (o : Oper) : Oper :=
  match stepDue n c o .att with
  | none => o
  | some inc =>
    let v := attackLevel o.vol.toNat inc
    if v ≤ 0 then { o with vol := 0#9, eg := .dec } else { o with vol := BitVec.ofInt 9 v }

/-- EG_STEP in DEC (R184): no clamp. The sum is compared exactly and then held in 9 bits; in every state the
unit can reach it is at most 499 (DESIGN CHOICE, log entry 6). -/
def egDecay (n : BitVec 32) (c : Chan) (o : Oper) : Oper :=
  match stepDue n c o .dec with
  | none => o
  | some inc =>
    let v := o.vol.toNat + inc
    let o' := { o with vol := BitVec.ofNat 9 v }
    if slv o ≤ v then { o' with eg := .sus } else o'

/-- EG_STEP in SUS (R185): a sustained operator holds; a percussive one decays at the release rate to 511. -/
def egSustain (n : BitVec 32) (c : Chan) (o : Oper) : Oper :=
  if o.egt then o
  else match stepDue n c o .sus with
    | none => o
    | some inc => { o with vol := BitVec.ofNat 9 (min (o.vol.toNat + inc) maxAtt) }

/-- EG_STEP in REL (R186). -/
def egRelease (n : BitVec 32) (c : Chan) (o : Oper) : Oper :=
  match stepDue n c o .rel with
  | none => o
  | some inc =>
    let v := o.vol.toNat + inc
    if maxAtt ≤ v then { o with vol := BitVec.ofNat 9 maxAtt, eg := .off }
    else { o with vol := BitVec.ofNat 9 v }

/-- EG_STEP(s) by the operator's phase (R181); OFF does not change (R187). -/
def egStep (n : BitVec 32) (c : Chan) (o : Oper) : Oper :=
  match o.eg with
  | .att => egAttack n c o
  | .dec => egDecay n c o
  | .sus => egSustain n c o
  | .rel => egRelease n c o
  | .off => o

/-- TICK step 2 (R181): the counter advances once, then every operator is stepped. -/
def step2Envelope (s : State) : State :=
  let n := s.g.egCnt + 1
  (s.modGlob fun g => { g with egCnt := n }).mapOper fun i o => egStep n (s.chanAt i) o

end Sys2Proof.Machine
end

