-- ==== Sys2Proof/Machine/Lfo.lean ====
section
/-! DEFINITION. TICK step 1: the AM and vibrato LFOs and the noise register (R161 to R164). -/

namespace Sys2Proof.Machine

/-- LFO_AM of a tick, from the AM position after its advance (R161): the table value, quartered with
truncation while am_depth = 0. -/
def lfoAm (g : Glob) : Nat :=
  let raw := amTab (g.amCnt.val / 64)
  if g.amDepth then raw else raw / 4

/-- LFO_STEP of a tick, from the vibrato position after its advance (R162). -/
def lfoStep (g : Glob) : Nat := g.pmCnt.toNat / 1024 % 8

/-- One shift of the noise register (R163): a set bit 0 XORs the mask in before the shift. -/
def noiseShift (mask : BitVec 24) (n : BitVec 23) : BitVec 23 :=
  if n.getLsbD 0 then ((n.setWidth 24 ^^^ mask) >>> 1).setWidth 23 else n >>> 1

/-- NB, the noise bit the rhythm voices read (R164). -/
def noiseBit (g : Glob) : Bool := g.noise.getLsbD 0

/-- Step 1 on the global record (R161, R162, R163). Fin and BitVec addition are the `mod 13440` and the
`mod 8192` of the rules. -/
def advanceLfoNoise (mask : BitVec 24) (g : Glob) : Glob :=
  { g with amCnt := g.amCnt + 1, pmCnt := g.pmCnt + 1, noise := noiseShift mask g.noise }

/-- TICK step 1 (R160). -/
def step1LfoNoise (s : State) : State := s.modGlob (advanceLfoNoise s.cfg.noiseMask)

end Sys2Proof.Machine
end

