-- ==== Sys2Proof/Machine/Phase.lean ====
section
/-! DEFINITION. TICK step 3: the phase accumulators with vibrato (R200 to R202). -/

namespace Sys2Proof.Machine

/-- PM_OFF(bf) (R201): the row is fnum[9:7]. -/
def pmOff (g : Glob) (bf : BitVec 13) : Int := pmTab (bf.toNat / 128 % 8) g.pmDepth (lfoStep g)

/-- The block/fnum value step 3 uses: with vibrato the offset is added to all 13 bits and may carry into bit
13 (R200, R201; DEDUCED, log entry 18). It is never negative: an offset other than 0 needs fnum >= 128 and is at least -7. -/
def vibratoFnum (g : Glob) (c : Chan) (o : Oper) : Nat :=
  if o.vib then ((c.blockFnum.toNat : Int) + pmOff g c.blockFnum).toNat else c.blockFnum.toNat

/-- The phase accumulator of one operator after step 3: wrap_32(cnt + FC(bf) * MUL(s)) (R200). -/
def phaseStep (g : Glob) (c : Chan) (o : Oper) : Oper :=
  { o with cnt := o.cnt + BitVec.ofNat 32 (fc (vibratoFnum g c o) * mulOf o) }

/-- TICK step 3 (R200): every operator advances. -/
def step3Phase (s : State) : State := s.mapOper fun i o => phaseStep s.g (s.chanAt i) o

end Sys2Proof.Machine
end

