-- ==== Sys2Proof/Machine/Output.lean ====
section
/-! DEFINITION. TICK step 4, the parts every voice uses and the melodic channels (R210 to R217, R220). A function
that writes the feedback history answers the new state beside its value. -/

namespace Sys2Proof.Machine

/-- VOL(s): total level with key scaling, envelope and tremolo, not clamped (R210). -/
def volOf (s : State) (i : Slot) : Nat :=
  let o := s.oper i
  tll s.cfg (s.chanAt i) o + o.vol.toNat + (if o.am then lfoAm s.g else 0)

/-- OPCALC's 10-bit waveform index: ((phase >> 16) + pm) & 1023, with two's-complement wrap (R212). -/
def waveIndex (phase : BitVec 32) (pm : Int) : Nat :=
  (((phase.toNat / 65536 : Nat) : Int) + pm).emod 1024 |>.toNat

/-- OPCALC(phase, env, pm, w) (R212). -/
def opCalc (phase : BitVec 32) (env : Nat) (pm : Int) (w : BitVec 2) : Int :=
  let p := env * 16 + sinTab w (waveIndex phase pm)
  if tlTabLen ≤ p then 0 else tlTab p

/-- FBOFF(c, fbin) (R215): the shift is arithmetic and floors. -/
def fbOff (fb : BitVec 3) (fbin : Int) : Int :=
  if fb = 0#3 then 0 else fbin / 2 ^ (9 - fb.toNat)

/-- This TICK's output of operator 1 of channel c, before its history is updated (R214). -/
def modOutput (s : State) (c : Channel) : Int :=
  let m := s.oper (op1Of c)
  let env := volOf s (op1Of c)
  if env < envQuiet then opCalc m.cnt env (fbOff (s.chan c).fb (m.o0 + m.o1)) m.ws else 0

/-- MOD_STEP(c) (R214): the history moves on by one output, and the value the carrier may use is the output of
the TICK before. -/
def modStep (s : State) (c : Channel) : State × Int :=
  let prev := (s.oper (op1Of c)).o1
  (s.modOper (op1Of c) fun o => { o with o0 := o.o1, o1 := modOutput s c }, prev)

/-- An operator's contribution with modulation input `pm`: OPCALC of its own phase and waveform, 0 where it is
quiet (R213, R216, R218). -/
def operOutput (s : State) (i : Slot) (phase : BitVec 32) (pm : Int) : Int :=
  let env := volOf s i
  if env < envQuiet then opCalc phase env pm (s.oper i).ws else 0

/-- CHANNEL(c), a melodic channel (R216): serial or parallel by the connection bit. -/
def channelOut (s : State) (c : Channel) : State × Int :=
  let (s', prev) := modStep s c
  let con := (s'.chan c).con
  let a := if con then prev else 0
  let pmin := if con then 0 else prev
  (s', a + operOutput s' (op2Of c) (s'.oper (op2Of c)).cnt pmin)

/-- CLIP16 (R220). -/
def clip16 (x : Int) : Int := min (max x (-32768)) 32767

end Sys2Proof.Machine
end

