-- ==== Sys2Proof/Machine/Rhythm.lean ====
section
/-! DEFINITION. TICK step 4, the rhythm percussion voices (R230 to R237). -/

namespace Sys2Proof.Machine

/-- A bit of P7 or P8: bit k of an accumulator's upper half (R233). -/
def phaseBit (o : Oper) (k : Nat) : Bool := o.cnt.getLsbD (16 + k)

/-- A phase whose waveform index is `ph`: ph << 16 (R234, R235, R237). -/
def phaseAt (ph : BitVec 10) : BitVec 32 := ph.setWidth 32 <<< 16

/-- BD (R232): channel 6 as FM, its operator 1 modulating only while con = 0, the carrier doubled. -/
def bassDrum (s : State) : State × Int :=
  let (s', prev) := modStep s 6
  let pmin := if (s'.chan 6).con then 0 else prev
  (s', 2 * operOutput s' 13 (s'.oper 13).cnt pmin)

/-- res1 of CYM_BITS: (P7[2] ^ P7[7]) | P7[3] (R233). -/
def cymRes1 (s : State) : Bool :=
  let p7 := s.oper 14
  xor (phaseBit p7 2) (phaseBit p7 7) || phaseBit p7 3

/-- res2 of CYM_BITS: P8[3] ^ P8[5] (R233). -/
def cymRes2 (s : State) : Bool :=
  let p8 := s.oper 17
  xor (phaseBit p8 3) (phaseBit p8 5)

/-- The high-hat's waveform index (R234). -/
def hhIndex (res1 res2 nb : Bool) : BitVec 10 :=
  let ph : BitVec 10 := if res2 then 0x234#10 else if res1 then 0x234#10 else 0x0D0#10
  if ph.getLsbD 9 then (if nb then 0x2D0#10 else ph) else (if nb then 0x034#10 else ph)

/-- HH (R234). -/
def highHat (s : State) (res1 res2 nb : Bool) : Int :=
  2 * operOutput s 14 (phaseAt (hhIndex res1 res2 nb)) 0

/-- The snare drum's waveform index, from P7[8] and the noise bit (R235). -/
def sdIndex (p78 nb : Bool) : BitVec 10 :=
  let ph : BitVec 10 := if p78 then 0x200#10 else 0x100#10
  if nb then ph ^^^ 0x100#10 else ph

/-- SD (R235). -/
def snareDrum (s : State) (nb : Bool) : Int :=
  2 * operOutput s 15 (phaseAt (sdIndex (phaseBit (s.oper 14) 8) nb)) 0

/-- TOM (R236): its own phase, no modulation, no feedback. -/
def tomTom (s : State) : Int := 2 * operOutput s 16 (s.oper 16).cnt 0

/-- The top-cymbal's waveform index (R237). -/
def tcIndex (res1 res2 : Bool) : BitVec 10 := if res2 then 0x300#10 else if res1 then 0x300#10 else 0x100#10

/-- TC (R237). -/
def topCymbal (s : State) (res1 res2 : Bool) : Int :=
  2 * operOutput s 17 (phaseAt (tcIndex res1 res2)) 0

/-- RHYTHM() (R231): the five voices in order; only the bass drum writes, its modulator history. -/
def rhythmOut (s : State) : State × Int :=
  let nb := noiseBit s.g
  let (s', bd) := bassDrum s
  let res1 := cymRes1 s'
  let res2 := cymRes2 s'
  (s', bd + highHat s' res1 res2 nb + snareDrum s' nb + tomTom s' + topCymbal s' res1 res2)

end Sys2Proof.Machine
end

