-- ==== Sys2Proof/Machine/Tick.lean ====
section
/-! DEFINITION. TICK: the four steps in order (R160), the mix of step 4 (R211) and the result (R165). -/

namespace Sys2Proof.Machine

open Host (Outcome)

/-- The channels step 4 mixes as melodic voices: 0 to 5 in rhythm mode, else 0 to 8 (R211). -/
def melodicChannels (rhythm : Bool) : List Channel :=
  [0, 1, 2, 3, 4, 5] ++ (if rhythm then [] else [6, 7, 8])

/-- ACC <- ACC + CHANNEL(c) (R211). -/
def mixChannel (acc : State × Int) (c : Channel) : State × Int :=
  let (s', v) := channelOut acc.1 c
  (s', acc.2 + v)

/-- ACC at the end of step 4, with the state that holds the new feedback histories (R211). -/
def mixAcc (s : State) : State × Int :=
  let melodic := (melodicChannels s.g.rhythm).foldl mixChannel (s, 0)
  if s.g.rhythm then
    let (s', v) := rhythmOut melodic.1
    (s', melodic.2 + v)
  else melodic

/-- TICK step 4 (R211, R220). -/
def step4Output (s : State) : State × Int :=
  let (s', acc) := mixAcc s
  (s', clip16 acc)

/-- Steps 1 to 3 of a TICK, each complete before the next (R160). -/
def tickAdvance (s : State) : State := step3Phase (step2Envelope (step1LfoNoise s))

/-- TICK as the contract has it: the state it leaves and the pair it returns (R160, R165). -/
def tickResult (s : State) : State × Stereo :=
  let (s', out) := step4Output (tickAdvance s)
  (s', ⟨out, out⟩)

/-- TICK (R160). What it returns is appended to what the host has observed (R309). -/
def execTick (s : State) : Outcome State Fault Refusal :=
  let (s', r) := tickResult s
  .next { s' with observed := s'.observed ++ [r] }

end Sys2Proof.Machine
end

