-- ==== Sys2Proof/Syntax.lean ====
section
/-! DEFINITION. The instructions: one constructor per row of spec/opcode_table.json, in the table's order.
An operand of a decoded write is the slot or channel it selects (R83, R85) and its data byte; an ignored
write keeps the address bits the row leaves free. -/

namespace Sys2Proof

/-- One constructor per row of the opcode table (30_encoding.md R85, rows in brackets). -/
inductive Instr where
  /-- WR_TEST, address 0x01 (row 1, R140). -/
  | wrTest (data : Byte)
  /-- WR_T1, address 0x02 (row 2, R141). -/
  | wrT1 (data : Byte)
  /-- WR_T2, address 0x03 (row 3, R142). -/
  | wrT2 (data : Byte)
  /-- WR_TCTL, address 0x04 (row 4, R143). -/
  | wrTctl (data : Byte)
  /-- WR_MODE, address 0x08 (row 5, R144). -/
  | wrMode (data : Byte)
  /-- IGNORED_GLOBAL, any other address 0x00 to 0x1F; `a` is addr[4:0] (row 6, R147). -/
  | ignoredGlobal (a : BitVec 5) (data : Byte)
  /-- WR_AVEKM, 0x20 + OFF_OF(s) (row 7, R100). -/
  | wrAvekm (s : Slot) (data : Byte)
  /-- IGNORED_OFF_20, an offset of that group that selects no slot (row 12, R147). -/
  | ignoredOff20 (off : BitVec 5) (data : Byte)
  /-- WR_KSLTL, 0x40 + OFF_OF(s) (row 8, R101). -/
  | wrKsltl (s : Slot) (data : Byte)
  /-- IGNORED_OFF_40 (row 12, R147). -/
  | ignoredOff40 (off : BitVec 5) (data : Byte)
  /-- WR_ARDR, 0x60 + OFF_OF(s) (row 9, R102). -/
  | wrArdr (s : Slot) (data : Byte)
  /-- IGNORED_OFF_60 (row 12, R147). -/
  | ignoredOff60 (off : BitVec 5) (data : Byte)
  /-- WR_SLRR, 0x80 + OFF_OF(s) (row 10, R103). -/
  | wrSlrr (s : Slot) (data : Byte)
  /-- IGNORED_OFF_80 (row 12, R147). -/
  | ignoredOff80 (off : BitVec 5) (data : Byte)
  /-- WR_WS, 0xE0 + OFF_OF(s) (row 11, R104). -/
  | wrWs (s : Slot) (data : Byte)
  /-- IGNORED_OFF_E0 (row 12, R147). -/
  | ignoredOffE0 (off : BitVec 5) (data : Byte)
  /-- WR_RHY, address 0xBD (row 13, R145 and R146). -/
  | wrRhy (data : Byte)
  /-- WR_FNUML, 0xA0 + c (row 14, R120). -/
  | wrFnuml (c : Channel) (data : Byte)
  /-- WR_KBF, 0xB0 + c (row 15, R121). -/
  | wrKbf (c : Channel) (data : Byte)
  /-- IGNORED_CH_AB: addr[7:5] = 101, addr[4] = `x`, addr[3:0] = `c` above 8, not 0xBD (row 16, R147). -/
  | ignoredChAb (x : Bool) (c : BitVec 4) (data : Byte)
  /-- WR_FBCON, 0xC0 + c (row 17, R124). -/
  | wrFbcon (c : Channel) (data : Byte)
  /-- WR_FBCON_ALIAS, 0xD0 + c while ALIAS_D0 = true (row 18, R124). -/
  | wrFbconAlias (c : Channel) (data : Byte)
  /-- IGNORED_CH_CD: addr[7:5] = 110, addr[4] = `x`, addr[3:0] = `c` (rows 19 and 20, R147). -/
  | ignoredChCd (x : Bool) (c : BitVec 4) (data : Byte)
  /-- IGNORED_BANK: every bank other than 0 (R84). -/
  | ignoredBank (addr data : Byte)
  /-- TICK (R160). -/
  | tick
  /-- RESET (R290). -/
  | reset
  deriving DecidableEq, Repr

end Sys2Proof
end

