-- ==== Sys2Proof/Machine/Dispatch.lean ====
section
/-! DEFINITION. The dispatch: one arm per constructor of Instr, each one call of that instruction's meaning. -/

namespace Sys2Proof.Machine

def exec (i : Instr) (s : State) : Host.Outcome State Fault Refusal :=
  match i with
  | .wrTest data => Sys2Proof.Machine.execWrTest data s
  | .wrT1 data => Sys2Proof.Machine.execWrT1 data s
  | .wrT2 data => Sys2Proof.Machine.execWrT2 data s
  | .wrTctl data => Sys2Proof.Machine.execWrTctl data s
  | .wrMode data => Sys2Proof.Machine.execWrMode data s
  | .ignoredGlobal a data => Sys2Proof.Machine.execIgnoredGlobal a data s
  | .wrAvekm slot data => Sys2Proof.Machine.execWrAvekm slot data s
  | .ignoredOff20 off data => Sys2Proof.Machine.execIgnoredOff20 off data s
  | .wrKsltl slot data => Sys2Proof.Machine.execWrKsltl slot data s
  | .ignoredOff40 off data => Sys2Proof.Machine.execIgnoredOff40 off data s
  | .wrArdr slot data => Sys2Proof.Machine.execWrArdr slot data s
  | .ignoredOff60 off data => Sys2Proof.Machine.execIgnoredOff60 off data s
  | .wrSlrr slot data => Sys2Proof.Machine.execWrSlrr slot data s
  | .ignoredOff80 off data => Sys2Proof.Machine.execIgnoredOff80 off data s
  | .wrWs slot data => Sys2Proof.Machine.execWrWs slot data s
  | .ignoredOffE0 off data => Sys2Proof.Machine.execIgnoredOffE0 off data s
  | .wrRhy data => Sys2Proof.Machine.execWrRhy data s
  | .wrFnuml c data => Sys2Proof.Machine.execWrFnuml c data s
  | .wrKbf c data => Sys2Proof.Machine.execWrKbf c data s
  | .ignoredChAb x c data => Sys2Proof.Machine.execIgnoredChAb x c data s
  | .wrFbcon c data => Sys2Proof.Machine.execWrFbcon c data s
  | .wrFbconAlias c data => Sys2Proof.Machine.execWrFbconAlias c data s
  | .ignoredChCd x c data => Sys2Proof.Machine.execIgnoredChCd x c data s
  | .ignoredBank addr data => Sys2Proof.Machine.execIgnoredBank addr data s
  | .tick => Sys2Proof.Machine.execTick s
  | .reset => Sys2Proof.Machine.execReset s

end Sys2Proof.Machine
end

