-- ==== Sys2Proof/WellFormed.lean ====
section
/-! DEFINITION. Which instructions some command names: the "condition" column of spec/opcode_table.json. A
decoded write's operands are a slot or channel and a byte, so nothing is left to check; the ignored writes and
the alias carry the table's conditions. -/

namespace Sys2Proof

open Sys2Proof.Machine (slotOf)

/-- The condition of the instruction's row under the parameters `cfg` (R85). -/
def wellFormed (cfg : Config) : Instr → Bool
  | .wrTest _ => true
  | .wrT1 _ => true
  | .wrT2 _ => true
  | .wrTctl _ => true
  | .wrMode _ => true
  | .ignoredGlobal a _ => decide (a ∉ [0x01#5, 0x02#5, 0x03#5, 0x04#5, 0x08#5])
  | .wrAvekm _ _ => true
  | .ignoredOff20 off _ => (slotOf off).isNone
  | .wrKsltl _ _ => true
  | .ignoredOff40 off _ => (slotOf off).isNone
  | .wrArdr _ _ => true
  | .ignoredOff60 off _ => (slotOf off).isNone
  | .wrSlrr _ _ => true
  | .ignoredOff80 off _ => (slotOf off).isNone
  | .wrWs _ _ => true
  | .ignoredOffE0 off _ => (slotOf off).isNone
  | .wrRhy _ => true
  | .wrFnuml _ _ => true
  | .wrKbf _ _ => true
  | .ignoredChAb x c _ => decide (8 < c.toNat) && !(x && c == 0xD#4)
  | .wrFbcon _ _ => true
  | .wrFbconAlias _ _ => cfg.aliasD0
  | .ignoredChCd x c _ => decide (8 < c.toNat) || (x && !cfg.aliasD0)
  | .ignoredBank _ _ => true
  | .tick => true
  | .reset => true

end Sys2Proof
end

