-- ==== Sys2Proof/Decode.lean ====
section
/-! DEFINITION. The transcriber (R271, R81), the decoder of command words (R82 to R86), total on all 2^17
words, and the encoder that names an instruction's command. -/

namespace Sys2Proof

open Sys2Proof.Machine (slotOf offOf channelOf)

/-- The command word W = (b, addr[7:0], data[7:0]) (R81). -/
def commandWord (b : Bool) (addr data : Byte) : CmdWord := (BitVec.ofBool b ++ addr ++ data).cast rfl

/-- The operand domain of R271, checked in the order bank, address, data (DEDUCED, log entry 4). A WRITE inside it becomes its
command word: every bank other than 0 gives b = 1 (R81). -/
def transcribe : HostOp → Except OperandError Command
  | .write bank addr data =>
    if bank < 0 then .error (.negativeBank bank)
    else if addr < 0 ∨ 255 < addr then .error (.addrNotByte addr)
    else if data < 0 ∨ 255 < data then .error (.dataNotByte data)
    else .ok (.write (commandWord (bank != 0) (BitVec.ofInt 8 addr) (BitVec.ofInt 8 data)))
  | .tick => .ok .tick
  | .reset => .ok .reset

/-- addr[15:8] of a command word (R81). -/
def wordAddr (w : CmdWord) : Byte := w.extractLsb' 8 8

/-- data[7:0] of a command word (R81). -/
def wordData (w : CmdWord) : Byte := w.extractLsb' 0 8

/-- R85 rows 1 to 6: the global group 0x00 to 0x1F. -/
def decodeGlobal (a : BitVec 5) (data : Byte) : Instr :=
  if a = 0x01#5 then .wrTest data
  else if a = 0x02#5 then .wrT1 data
  else if a = 0x03#5 then .wrT2 data
  else if a = 0x04#5 then .wrTctl data
  else if a = 0x08#5 then .wrMode data
  else .ignoredGlobal a data

/-- R85 rows 7 to 12: an operator group, whose offset selects a slot or nothing (R83). -/
def decodeOperator (hit : Slot → Byte → Instr) (miss : BitVec 5 → Byte → Instr) (off : BitVec 5)
    (data : Byte) : Instr :=
  match slotOf off with
  | some s => hit s data
  | none => miss off data

/-- R85 rows 13 to 16: the group 0xA0 to 0xBF. `x` is addr[4], `c` addr[3:0]. -/
def decodeChAb (x : Bool) (c : BitVec 4) (data : Byte) : Instr :=
  if x = true ∧ c = 0xD#4 then .wrRhy data
  else match channelOf c with
    | some ch => if x then .wrKbf ch data else .wrFnuml ch data
    | none => .ignoredChAb x c data

/-- R85 rows 17 to 20: the group 0xC0 to 0xDF. -/
def decodeChCd (cfg : Config) (x : Bool) (c : BitVec 4) (data : Byte) : Instr :=
  match channelOf c with
  | some ch =>
    if x = false then .wrFbcon ch data
    else if cfg.aliasD0 then .wrFbconAlias ch data
    else .ignoredChCd x c data
  | none => .ignoredChCd x c data

/-- R82 and R85: a WRITE to bank 0. Bits 7..5 of the address select the group. -/
def decodeAddr (cfg : Config) (addr data : Byte) : Instr :=
  let low : BitVec 5 := addr.extractLsb' 0 5
  let x := addr.getLsbD 4
  let c : BitVec 4 := addr.extractLsb' 0 4
  match (addr.extractLsb' 5 3).toNat with
  | 0 => decodeGlobal low data
  | 1 => decodeOperator .wrAvekm .ignoredOff20 low data
  | 2 => decodeOperator .wrKsltl .ignoredOff40 low data
  | 3 => decodeOperator .wrArdr .ignoredOff60 low data
  | 4 => decodeOperator .wrSlrr .ignoredOff80 low data
  | 5 => decodeChAb x c data
  | 6 => decodeChCd cfg x c data
  | _ => decodeOperator .wrWs .ignoredOffE0 low data

/-- The decode of a command word: a set bank bit is an ignored write (R84), else R85. -/
def decodeWord (cfg : Config) (w : CmdWord) : Instr :=
  if w.getLsbD 16 then .ignoredBank (wordAddr w) (wordData w)
  else decodeAddr cfg (wordAddr w) (wordData w)

/-- The decode of an operation of the unit (R80, R81). Total: no command is rejected (R86). -/
def decode (cfg : Config) : Command → Instr
  | .write w => decodeWord cfg w
  | .tick => .tick
  | .reset => .reset

/-- The instruction that an opcode-table word of `nbits` bits is, under the recommended parameters. A
command word has 17 bits (R81), so a number of more bits is no command word; TICK and RESET have no word
(DESIGN CHOICE, log entry 14). -/
def decodeTableWord (nbits w : Nat) : Option Instr :=
  if 0 < nbits ∧ w < 2 ^ 17 ∧ w < 2 ^ nbits then
    some (decode Config.recommended (.write (BitVec.ofNat 17 w)))
  else none

/-- The address with group bits `g` and low bits `low` (R82). -/
def groupAddr (g : BitVec 3) (low : BitVec 5) : Byte := (g ++ low).cast rfl

/-- The command word of a WRITE to bank 0 whose address has group bits `g` and low bits `low` (R81, R82). -/
def wordOf (g : BitVec 3) (low : BitVec 5) (data : Byte) : CmdWord :=
  commandWord false (groupAddr g low) data

/-- addr[4:0] of a channel register: addr[4] = `x`, addr[3:0] = `c` (R85 rows 13 to 20). -/
def channelLow (x : Bool) (c : BitVec 4) : BitVec 5 := (BitVec.ofBool x ++ c).cast rfl

/-- The command that is the instruction, from the match patterns of spec/opcode_table.json. -/
def encode : Instr → Command
  | .wrTest v => .write (wordOf 0b000#3 0x01#5 v)
  | .wrT1 v => .write (wordOf 0b000#3 0x02#5 v)
  | .wrT2 v => .write (wordOf 0b000#3 0x03#5 v)
  | .wrTctl v => .write (wordOf 0b000#3 0x04#5 v)
  | .wrMode v => .write (wordOf 0b000#3 0x08#5 v)
  | .ignoredGlobal a v => .write (wordOf 0b000#3 a v)
  | .wrAvekm s v => .write (wordOf 0b001#3 (offOf s) v)
  | .ignoredOff20 off v => .write (wordOf 0b001#3 off v)
  | .wrKsltl s v => .write (wordOf 0b010#3 (offOf s) v)
  | .ignoredOff40 off v => .write (wordOf 0b010#3 off v)
  | .wrArdr s v => .write (wordOf 0b011#3 (offOf s) v)
  | .ignoredOff60 off v => .write (wordOf 0b011#3 off v)
  | .wrSlrr s v => .write (wordOf 0b100#3 (offOf s) v)
  | .ignoredOff80 off v => .write (wordOf 0b100#3 off v)
  | .wrWs s v => .write (wordOf 0b111#3 (offOf s) v)
  | .ignoredOffE0 off v => .write (wordOf 0b111#3 off v)
  | .wrRhy v => .write (wordOf 0b101#3 0x1D#5 v)
  | .wrFnuml c v => .write (wordOf 0b101#3 (channelLow false (BitVec.ofNat 4 c.val)) v)
  | .wrKbf c v => .write (wordOf 0b101#3 (channelLow true (BitVec.ofNat 4 c.val)) v)
  | .ignoredChAb x c v => .write (wordOf 0b101#3 (channelLow x c) v)
  | .wrFbcon c v => .write (wordOf 0b110#3 (channelLow false (BitVec.ofNat 4 c.val)) v)
  | .wrFbconAlias c v => .write (wordOf 0b110#3 (channelLow true (BitVec.ofNat 4 c.val)) v)
  | .ignoredChCd x c v => .write (wordOf 0b110#3 (channelLow x c) v)
  | .ignoredBank addr v => .write (commandWord true addr v)
  | .tick => .tick
  | .reset => .reset

end Sys2Proof
end

