-- ==== Sys2Proof/Machine/Port.lean ====
section
/-! DEFINITION. The boundary with the host: taking the next operation, which is this machine's fetch (R21, R72,
R271), and writing an opcode-table word as the operation it stands for. -/

namespace Sys2Proof.Machine

/-- What the unit has to do next. -/
inductive Fetched where
  /-- The host has issued nothing: the unit is idle (R282). -/
  | idle
  /-- An operation outside the operand domain (R271). -/
  | refused (e : OperandError)
  /-- An instruction, and the state with its operation taken from the queue. -/
  | instr (i : Instr) (s : State)
  deriving DecidableEq, Repr

/-- Take the oldest pending operation, transcribe it (R271, R81) and decode it (R85). -/
def fetch (s : State) : Fetched :=
  match s.pending with
  | [] => .idle
  | h :: rest =>
    match transcribe h with
    | .error e => .refused e
    | .ok cmd => .instr (decode s.cfg cmd) { s with pending := rest }

/-- The WRITE whose command word is `w`: bits above 15 the bank, then address and data (R81). -/
def hostOpOfWord (w : Nat) : HostOp :=
  .write ((w / 65536 : Nat) : Int) ((w / 256 % 256 : Nat) : Int) ((w % 256 : Nat) : Int)

/-- The state with a WRITE issued as the very next operation. -/
def issueWord (s : State) (w : Nat) : State := { s with pending := hostOpOfWord w :: s.pending }

end Sys2Proof.Machine
end

