-- ==== Sys2Proof/Machine/Step.lean ====
section
/-! DEFINITION. One step: the next operation of the host is taken, decoded and performed. With none pending the
unit is idle and holds its state (R282; DEDUCED, log entry 5). -/

namespace Sys2Proof.Machine

/-- One step of the machine. -/
def step (s : State) : Host.Outcome State Fault Refusal :=
  match fetch s with
  | .idle => .next s
  | .refused e => .refused (.outsideDomain e)
  | .instr i s' => exec i s'

/-- The state in which an opcode-table word is the next operation (`nbits` is not needed: the bits above the
word are zero). -/
def State.withFetchWord (s : State) (_nbits w : Nat) : State := issueWord s w

end Sys2Proof.Machine
end

