-- ==== Sys2Proof/Machine/Script.lean ====
section
/-! DEFINITION. The spec's textual syntax for a command stream (R88) and its pseudo-instructions with their
expansions (R89). A line becomes the operations the host issues. What R88 leaves open of separators, letter case
and signs is fixed here (DESIGN CHOICE, log entry 15). -/

namespace Sys2Proof.Machine

/-- A line of a command stream: the operations of R88 and the pseudo-instructions of R89. -/
inductive Line where
  /-- `WR addr, data`: WRITE(0, addr, data). -/
  | wr (addr data : Int)
  /-- `WRB bank, addr, data`: WRITE(bank, addr, data). -/
  | wrb (bank addr data : Int)
  /-- `TICK` (n = 1) or `TICK n`: n TICKs in a row, n >= 1. -/
  | tick (n : Nat)
  /-- `RESET`. -/
  | reset
  /-- `KEYON c, blk, fn`. -/
  | keyOn (c : Channel) (blk : BitVec 3) (fn : BitVec 10)
  /-- `KEYOFF c, blk, fn`. -/
  | keyOff (c : Channel) (blk : BitVec 3) (fn : BitVec 10)
  /-- `OPSET s, a, b, d, e`. -/
  | opSet (s : Slot) (a b d e : Int)
  /-- `WAVE s, w`. -/
  | wave (s : Slot) (w : Int)
  /-- `CHCFG c, fb, con`. -/
  | chCfg (c : Channel) (fb con : Nat)
  /-- `RHY bits`. -/
  | rhy (bits : Int)
  deriving DecidableEq, Repr

/-- WRITE(0, base + low, data) (R88, R89). -/
def writeAt (base low : Nat) (data : Int) : HostOp := .write 0 ((base + low : Nat) : Int) data

/-- (blk << 2) | fn[9:8], the block and fnum bits of 0xB0 + c (R89). -/
def keyByte (blk : BitVec 3) (fn : BitVec 10) : Nat := blk.toNat <<< 2 ||| fn.toNat / 256

/-- The operations a line stands for (R88, R89). -/
def expandLine : Line → List HostOp
  | .wr addr data => [.write 0 addr data]
  | .wrb bank addr data => [.write bank addr data]
  | .tick n => List.replicate n .tick
  | .reset => [.reset]
  | .keyOn c blk fn =>
    [writeAt 0xA0 c.val (fn.toNat % 256 : Nat), writeAt 0xB0 c.val (0x20 ||| keyByte blk fn : Nat)]
  | .keyOff c blk fn => [writeAt 0xB0 c.val (keyByte blk fn : Nat)]
  | .opSet s a b d e =>
    let off := (offOf s).toNat
    [writeAt 0x20 off a, writeAt 0x40 off b, writeAt 0x60 off d, writeAt 0x80 off e]
  | .wave s w => [writeAt 0x01 0 0x20, writeAt 0xE0 (offOf s).toNat w]
  | .chCfg c fb con => [writeAt 0xC0 c.val (fb <<< 1 ||| con : Nat)]
  | .rhy bits => [writeAt 0xBD 0 bits]

/-- Why a line is no line of R88 or R89. -/
inductive LineError where
  /-- The first word names no operation and no pseudo-instruction. -/
  | unknownOperation (word : List Char)
  /-- The operands are not the ones this operation takes. -/
  | badOperands (word : List Char)
  deriving DecidableEq, Repr

/-- A character that separates words: blanks and commas. -/
def isSeparator (c : Char) : Bool := c == ' ' || c == '\t' || c == '\r' || c == ','

/-- The words of a line before its comment (R88: `;` to end of line); `cur` is the word being read,
reversed. -/
def lineWords : List Char → List Char → List (List Char)
  | [], cur => if cur.isEmpty then [] else [cur.reverse]
  | c :: cs, cur =>
    if c == ';' then (if cur.isEmpty then [] else [cur.reverse])
    else if isSeparator c then
      (if cur.isEmpty then lineWords cs [] else cur.reverse :: lineWords cs [])
    else lineWords cs (c :: cur)

/-- The value of a digit, hexadecimal in either case. -/
def digitValue (c : Char) : Option Nat :=
  let n := c.toNat
  if 48 ≤ n ∧ n ≤ 57 then some (n - 48)
  else if 65 ≤ n ∧ n ≤ 70 then some (n - 55)
  else if 97 ≤ n ∧ n ≤ 102 then some (n - 87)
  else none

/-- The number a run of digits writes in a base, from the value `acc` already read. -/
def digits (base : Nat) : List Char → Nat → Option Nat
  | [], acc => some acc
  | c :: cs, acc =>
    match digitValue c with
    | some d => if d < base then digits base cs (base * acc + d) else none
    | none => none

/-- A natural number: hexadecimal after `0x`, else decimal (R88). -/
def parseNat (w : List Char) : Option Nat :=
  match w with
  | [] => none
  | '0' :: 'x' :: d :: ds => digits 16 (d :: ds) 0
  | d :: ds => digits 10 (d :: ds) 0

/-- An operand: a number, or a number after `-`, which lies outside the domain and is refused later (R271). -/
def parseInt (w : List Char) : Option Int :=
  match w with
  | '-' :: ds => (parseNat ds).map fun n => -(n : Int)
  | _ => (parseNat w).map fun n => (n : Int)

/-- A number below `n`, as a slot or channel. -/
def parseFin (n : Nat) (w : List Char) : Option (Fin n) :=
  match parseNat w with
  | some v => if h : v < n then some ⟨v, h⟩ else none
  | none => none

/-- A number of `n` bits. -/
def parseBits (n : Nat) (w : List Char) : Option (BitVec n) :=
  match parseNat w with
  | some v => if v < 2 ^ n then some (BitVec.ofNat n v) else none
  | none => none

/-- The operands of an operation or pseudo-instruction, whose first word is `op`. -/
def parseOperands (op : List Char) (args : List (List Char)) : Except LineError Line :=
  let orBad : Option Line → Except LineError Line := fun
    | some l => .ok l
    | none => .error (.badOperands op)
  if op = ['W', 'R'] then
    match args with
    | [a, d] => orBad do return .wr (← parseInt a) (← parseInt d)
    | _ => .error (.badOperands op)
  else if op = ['W', 'R', 'B'] then
    match args with
    | [b, a, d] => orBad do return .wrb (← parseInt b) (← parseInt a) (← parseInt d)
    | _ => .error (.badOperands op)
  else if op = ['T', 'I', 'C', 'K'] then
    match args with
    | [] => .ok (.tick 1)
    | [n] => orBad do
      let k ← parseNat n
      if k = 0 then none else some (.tick k)
    | _ => .error (.badOperands op)
  else if op = ['R', 'E', 'S', 'E', 'T'] then
    match args with
    | [] => .ok .reset
    | _ => .error (.badOperands op)
  else if op = ['K', 'E', 'Y', 'O', 'N'] then
    match args with
    | [c, b, f] => orBad do return .keyOn (← parseFin 9 c) (← parseBits 3 b) (← parseBits 10 f)
    | _ => .error (.badOperands op)
  else if op = ['K', 'E', 'Y', 'O', 'F', 'F'] then
    match args with
    | [c, b, f] => orBad do return .keyOff (← parseFin 9 c) (← parseBits 3 b) (← parseBits 10 f)
    | _ => .error (.badOperands op)
  else if op = ['O', 'P', 'S', 'E', 'T'] then
    match args with
    | [s, a, b, d, e] => orBad do
      return .opSet (← parseFin 18 s) (← parseInt a) (← parseInt b) (← parseInt d) (← parseInt e)
    | _ => .error (.badOperands op)
  else if op = ['W', 'A', 'V', 'E'] then
    match args with
    | [s, w] => orBad do return .wave (← parseFin 18 s) (← parseInt w)
    | _ => .error (.badOperands op)
  else if op = ['C', 'H', 'C', 'F', 'G'] then
    match args with
    | [c, f, n] => orBad do return .chCfg (← parseFin 9 c) (← parseNat f) (← parseNat n)
    | _ => .error (.badOperands op)
  else if op = ['R', 'H', 'Y'] then
    match args with
    | [b] => orBad do return .rhy (← parseInt b)
    | _ => .error (.badOperands op)
  else .error (.unknownOperation op)

/-- A line of text (R88); a blank line or a comment is no operation. -/
def parseLine (text : List Char) : Except LineError (Option Line) :=
  match lineWords text [] with
  | [] => .ok none
  | op :: args => (parseOperands op args).map some

/-- The lines of a text; `cur` is the line being read, reversed. -/
def textLines : List Char → List Char → List (List Char)
  | [], cur => [cur.reverse]
  | c :: cs, cur => if c == '\n' then cur.reverse :: textLines cs [] else textLines cs (c :: cur)

/-- The operations of a list of lines, in order. A text with a line that is none has no operations at all, and the
first such line is the one named (DESIGN CHOICE, log entry 15: R88 does not say). -/
def lineOps : List (List Char) → Except LineError (List HostOp)
  | [] => .ok []
  | l :: ls =>
    match parseLine l with
    | .error e => .error e
    | .ok none => lineOps ls
    | .ok (some line) => (lineOps ls).map fun ops => expandLine line ++ ops

/-- The operations of a command stream (R88). -/
def parseProgram (text : List Char) : Except LineError (List HostOp) := lineOps (textLines text [])

/-- The state in which the host has issued `ops` after what is already pending. -/
def issueAll (ops : List HostOp) (s : State) : State := { s with pending := s.pending ++ ops }

end Sys2Proof.Machine
end

