-- ==== Sys2Proof/Safety.lean ====
section
/-! DEFINITION. What claims are stated in: the invariants of R38, R25, R163 and R222, silence (R292), key-on
events, and the host's duty in rhythm mode (R304). -/

namespace Sys2Proof

open Sys2Proof.Machine

/-- The operator clauses of R38: OFF only at maximum attenuation, a clear latch only in REL or OFF, a set latch
only in ATT, DEC or SUS. -/
def KeyPhaseAgree (o : Oper) : Prop :=
  (o.eg = .off → o.vol = 511#9) ∧
  (o.key = 0#2 → o.eg = .rel ∨ o.eg = .off) ∧
  (o.key ≠ 0#2 → o.eg = .att ∨ o.eg = .dec ∨ o.eg = .sus)

/-- R38 for every operator of the state. -/
def KeyPhaseInv (s : State) : Prop := ∀ i : Slot, KeyPhaseAgree (s.oper i)

/-- The bound behind R184: an operator in DEC lies below the largest sustain level. -/
def DecayBelowInv (s : State) : Prop := ∀ i : Slot, (s.oper i).eg = .dec → (s.oper i).vol.toNat < 496

/-- An output lies in the range of R212. -/
def InOutputRange (x : Int) : Prop := -4084 ≤ x ∧ x ≤ 4084

/-- The feedback history (R27, R222): operator 1 of a channel holds two outputs, operator 2 holds zeros. -/
def HistoryInv (s : State) : Prop :=
  ∀ i : Slot,
    InOutputRange (s.oper i).o0 ∧ InOutputRange (s.oper i).o1 ∧
    (i.val % 2 = 1 → (s.oper i).o0 = 0 ∧ (s.oper i).o1 = 0)

/-- The timer flags (R24, R25): no status flag is set, and tctl holds only its four bits. -/
def TimerInv (s : State) : Prop := s.g.status = 0#3 ∧ s.g.tctl &&& 0x9C#8 = 0#8

/-- The noise register is nonzero (R38, R163), where the parameters make it so: a nonzero seed and a mask whose
bit 23 is set, as the default has. -/
def NoiseInv (s : State) : Prop :=
  s.cfg.wf ∧ s.cfg.noiseMask.getLsbD 23 = true ∧ s.g.noise ≠ 0#23

/-- The states of R292: every operator OFF at maximum attenuation, with no output in its history. -/
def Silent (s : State) : Prop :=
  ∀ i : Slot, (s.oper i).eg = .off ∧ (s.oper i).vol = 511#9 ∧ (s.oper i).o0 = 0 ∧ (s.oper i).o1 = 0

/-- The instruction performs KEY_ON on slot i (R121, R146): 0xB0 + c with bit 5 set on the slot's channel, or
0xBD with bit 5 and the slot's drum bit set. -/
def keysOn (i : Slot) : Instr → Bool
  | .wrKbf c v => chanOf i == c && fieldKeyOn v
  | .wrRhy v => fieldRhythm v && rhythmKeyMap.any fun p => p.1 == i && v.getLsbD p.2
  | _ => false

/-- The instruction is a WRITE. -/
def isWrite : Instr → Bool
  | .tick => false
  | .reset => false
  | _ => true

/-- The host's side of two states is the same: parameters, pending operations and observation. -/
def SameHostSide (s t : State) : Prop :=
  t.cfg = s.cfg ∧ t.pending = s.pending ∧ t.observed = s.observed

/-- Every channel but c is the same in both states. -/
def SameOtherChans (c : Channel) (s t : State) : Prop := ∀ d : Channel, d ≠ c → t.chan d = s.chan d

/-- Every operator but i is the same in both states. -/
def SameOtherOpers (i : Slot) (s t : State) : Prop := ∀ j : Slot, j ≠ i → t.oper j = s.oper j

/-- The instruction is an ignored write (R86, R147). -/
def isIgnored : Instr → Bool
  | .ignoredGlobal _ _ => true
  | .ignoredOff20 _ _ => true
  | .ignoredOff40 _ _ => true
  | .ignoredOff60 _ _ => true
  | .ignoredOff80 _ _ => true
  | .ignoredOffE0 _ _ => true
  | .ignoredChAb _ _ _ => true
  | .ignoredChCd _ _ _ => true
  | .ignoredBank _ _ => true
  | _ => false

/-- The ignored addresses of bank 0, as R147 lists them. -/
def ignoredAddress (aliasD0 : Bool) (a : Nat) : Bool :=
  a == 0x00 || (0x05 ≤ a && a ≤ 0x07) || (0x09 ≤ a && a ≤ 0x1F) ||
  ([1, 2, 3, 4, 7].contains (a / 32) &&
    ([0x06, 0x07, 0x0E, 0x0F].contains (a % 32) || 0x16 ≤ a % 32)) ||
  (0xA9 ≤ a && a ≤ 0xAF) || (0xB9 ≤ a && a ≤ 0xBC) || a == 0xBE || a == 0xBF ||
  (0xC9 ≤ a && a ≤ 0xCF) || (0xD9 ≤ a && a ≤ 0xDF) ||
  (0xD0 ≤ a && a ≤ 0xD8 && !aliasD0)

/-- Two states agree on every field some rule reads: they may differ in t1, t2, tctl, status, rkeys and the bits
of mode other than NOTE-SEL (R272, R144; 93_implementation_defined.md, Part 1). -/
def SameReadFields (s t : State) : Prop :=
  SameHostSide s t ∧ t.ch = s.ch ∧ t.op = s.op ∧
  t.g.mode.getLsbD 6 = s.g.mode.getLsbD 6 ∧
  t.g =
    { s.g with
      t1 := t.g.t1
      t2 := t.g.t2
      tctl := t.g.tctl
      status := t.g.status
      rkeys := t.g.rkeys
      mode := t.g.mode }

/-- Two states agree but for bits 31:26 of the phase accumulators (R202). -/
def SamePhaseLow26 (s t : State) : Prop :=
  SameHostSide s t ∧ t.ch = s.ch ∧ t.g = s.g ∧
  ∀ i : Slot,
    (t.oper i).cnt.toNat % 2 ^ 26 = (s.oper i).cnt.toNat % 2 ^ 26 ∧
    t.oper i = { s.oper i with cnt := (t.oper i).cnt }

/-- Two states agree but for bits 31:15 of the envelope counter (R278). -/
def SameEnvelopeCounterLow15 (s t : State) : Prop :=
  SameHostSide s t ∧ t.ch = s.ch ∧ t.op = s.op ∧
  t.g.egCnt.toNat % 2 ^ 15 = s.g.egCnt.toNat % 2 ^ 15 ∧
  t.g = { s.g with egCnt := t.g.egCnt }

/-- A WRITE breaks the duty of R304 in this state: a melodic key-on of channel 6, 7 or 8 while rhythm mode is
on. -/
def breaksRhythmDuty (s : State) : HostOp → Bool
  | .write bank addr data =>
    s.g.rhythm && bank == 0 && (addr == 0xB6 || addr == 0xB7 || addr == 0xB8) && data / 32 % 2 == 1
  | _ => false

/-- RhythmKeyDuty(ops) of R304 from state s (DEDUCED, log entry 19): no operation of the sequence breaks the duty in the state it meets.
A sequence that stops at an operation outside the domain performs nothing after it. -/
def rhythmKeyDuty : List HostOp → State → Bool
  | [], _ => true
  | op :: ops, s =>
    !breaksRhythmDuty s op &&
      match step { s with pending := [op] } with
      | .next t => rhythmKeyDuty ops t
      | _ => true

/-- Every pending operation is one of the unit (R271), so that no step of the run is refused. -/
def PendingInDomain (s : State) : Prop := ∀ op ∈ s.pending, ∃ cmd, transcribe op = .ok cmd

end Sys2Proof
end

