-- ==== Sys2Proof/Certificates/Slice0/Obligations.lean ====
section
/-! DEFINITION. The statements for the provers, each from numbered rules of the spec. -/

open Sys2Proof Sys2Proof.Machine

/-! ## Reset -/

/-- R290: RESET puts every field of G, CH and OP at its reset value; it is idempotent; the next TICK returns (0, 0)
and leaves the counters at 1. That it keeps the parameters, the queue and the observation is the model's deduction
(log entry 16). -/
def Obligations.ResetInstructionInstallsResetColumns : Prop :=
  ∀ s : State, ∃ t, exec .reset s = .next t ∧
    t.g =
      { wavesel := false, t1 := 0#8, t2 := 0#8, tctl := 0#8, status := 0#3, mode := 0#8,
        amDepth := false, pmDepth := false, rhythm := false, rkeys := 0#5, egCnt := 0#32,
        amCnt := 0, pmCnt := 0#13, noise := s.cfg.noiseSeed } ∧
    (∀ c : Channel,
      t.chan c = { blockFnum := 0#13, kcode := 0#4, fb := 0#3, con := false }) ∧
    (∀ i : Slot,
      t.oper i =
        { am := false, vib := false, egt := false, ksr := false, mult := 0#4, ksl := 0#2,
          tl := 0#6, ar := 0#4, dr := 0#4, sl := 0#4, rr := 0#4, ws := 0#2, key := 0#2,
          eg := .off, vol := 511#9, cnt := 0#32, o0 := 0, o1 := 0 }) ∧
    SameHostSide s t ∧
    exec .reset t = .next t ∧
    ∃ u, exec .tick t = .next u ∧ u.observed = t.observed ++ [⟨0, 0⟩] ∧
      u.g.egCnt = 1#32 ∧ u.g.amCnt = 1 ∧ u.g.pmCnt = 1#13 ∧
      (s.cfg.noiseMask = 0x800302#24 → s.cfg.noiseSeed = 1#23 → u.g.noise = 0x400181#23)

/-- R293 with the reset columns of R24, R26 and R27: the state when the unit is created is the state RESET
leaves. That the parameters have the defaults of R9 and that nothing is pending or observed is the model's
choice (log entries 1, 2 and 3). -/
def Obligations.CreationStateIsResetState : Prop :=
  State.reset.cfg =
      { kslShift := #v[31, 2, 1, 0], aliasD0 := true, noiseMask := 0x800302#24,
        noiseSeed := 1#23 } ∧
    State.reset.g.noise = 1#23 ∧ State.reset.pending = [] ∧ State.reset.observed = [] ∧
    ∀ s : State, s.cfg = State.reset.cfg → s.pending = [] → s.observed = [] →
      exec .reset s = .next State.reset

/-! ## Global register writes -/

/-- R140: WR_TEST stores bit 5 in the waveform gate and changes nothing else; a cleared gate makes WR_WS a
no-op. -/
def Obligations.WrTestSetsWaveformGate : Prop :=
  ∀ (v : Byte) (s : State), ∃ t, exec (.wrTest v) s = .next t ∧
    t = { s with g := { s.g with wavesel := v.getLsbD 5 } } ∧
    (v.getLsbD 5 = false → ∀ (i : Slot) (w : Byte), exec (.wrWs i w) t = .next t)

/-- R141, R142, R144 (their pseudocode): the timer presets and the mode register store the byte and change
nothing else, no key code among it. -/
def Obligations.TimerPresetAndModeWritesStoreTheByte : Prop :=
  ∀ (v : Byte) (s : State),
    exec (.wrT1 v) s = .next { s with g := { s.g with t1 := v } } ∧
    exec (.wrT2 v) s = .next { s with g := { s.g with t2 := v } } ∧
    exec (.wrMode v) s = .next { s with g := { s.g with mode := v } }

/-- R143: bit 7 clears the status and leaves tctl; otherwise tctl is v & 0x63; nothing else changes, and no TICK
touches either field. -/
def Obligations.WrTctlClearsStatusOrStoresControl : Prop :=
  (∀ (v : Byte) (s : State),
    exec (.wrTctl v) s =
      .next (if v.getLsbD 7 then { s with g := { s.g with status := 0#3 } }
        else { s with g := { s.g with tctl := v &&& 0x63#8 } })) ∧
  ∀ s : State, ∃ t, exec .tick s = .next t ∧ t.g.status = s.g.status ∧ t.g.tctl = s.g.tctl

/-- R146 with the field part of R145: WR_RHY writes the four fields and keys each of the six rhythm slots on or
off through latch bit 1, and changes nothing else. -/
def Obligations.WrRhySetsFieldsAndKeysEveryDrum : Prop :=
  ∀ (v : Byte) (s : State), ∃ t, exec (.wrRhy v) s = .next t ∧
    t.g =
      { s.g with
        amDepth := v.getLsbD 7
        pmDepth := v.getLsbD 6
        rhythm := v.getLsbD 5
        rkeys := v.extractLsb' 0 5 } ∧
    t.ch = s.ch ∧ SameHostSide s t ∧
    (∀ i : Slot, i.val < 12 → t.oper i = s.oper i) ∧
    ∀ p ∈ ([(12, 4), (13, 4), (14, 0), (15, 3), (16, 2), (17, 1)] : List (Slot × Nat)),
      t.oper p.1 =
        if v.getLsbD 5 && v.getLsbD p.2 then keyOn 2#2 (s.oper p.1) else keyOff 2#2 (s.oper p.1)

/-! ## Operator parameter writes -/

/-- R100 with the multiplier table of R256: WR_AVEKM writes the five fields of slot i, and MUL(i) is then twice the
nominal multiple, with the corner cases at mult 0 and from 10 on; no other field of any record changes, the phase
accumulator and the attenuation among them. -/
def Obligations.WrAvekmWritesItsFields : Prop :=
  ∀ (i : Slot) (v : Byte) (s : State), ∃ t, exec (.wrAvekm i v) s = .next t ∧
    t.oper i =
      { s.oper i with
        am := v.getLsbD 7
        vib := v.getLsbD 6
        egt := v.getLsbD 5
        ksr := v.getLsbD 4
        mult := v.extractLsb' 0 4 } ∧
    mulOf (t.oper i) =
      (if v.toNat % 16 = 0 then 1
        else if v.toNat % 16 ≤ 10 then 2 * (v.toNat % 16)
        else if v.toNat % 16 = 11 then 20
        else if v.toNat % 16 ≤ 13 then 24
        else 30) ∧
    SameOtherOpers i s t ∧ t.g = s.g ∧ t.ch = s.ch ∧ SameHostSide s t

/-- R101: WR_KSLTL writes ksl and tl of slot i, and the slot's total level is then 4 * tl + (KSL_BASE >>
KSL_SHIFT[ksl]); nothing else changes. -/
def Obligations.WrKsltlWritesItsFields : Prop :=
  ∀ (i : Slot) (v : Byte) (s : State), ∃ t, exec (.wrKsltl i v) s = .next t ∧
    t.oper i = { s.oper i with ksl := v.extractLsb' 6 2, tl := v.extractLsb' 0 6 } ∧
    tll t.cfg (t.chanAt i) (t.oper i) =
      4 * (v.toNat % 64) +
        kslBase (s.chanAt i) >>>
          s.cfg.kslShift[v.toNat / 64]'(by have := v.isLt; omega) ∧
    SameOtherOpers i s t ∧ t.g = s.g ∧ t.ch = s.ch ∧ SameHostSide s t

/-- R102: WR_ARDR writes ar and dr of slot i and nothing else; a zero rate never advances its phase, and ar = 15
with KSRV >= 2 is the instant attack. -/
def Obligations.WrArdrWritesItsFields : Prop :=
  ∀ (i : Slot) (v : Byte) (s : State), ∃ t, exec (.wrArdr i v) s = .next t ∧
    t.oper i = { s.oper i with ar := v.extractLsb' 4 4, dr := v.extractLsb' 0 4 } ∧
    SameOtherOpers i s t ∧ t.g = s.g ∧ t.ch = s.ch ∧ SameHostSide s t ∧
    ∀ (n : BitVec 32) (c : Chan),
      (v.toNat / 16 = 0 → stepDue n c (t.oper i) .att = some 0) ∧
      (v.toNat % 16 = 0 → stepDue n c (t.oper i) .dec = some 0) ∧
      (v.toNat / 16 = 15 → 2 ≤ ksrv c (t.oper i) → stepDue n c (t.oper i) .att = some 8)

/-- R103: WR_SLRR writes sl and rr of slot i and nothing else, and the slot's sustain level is then 16 * sl, or
496 for sl = 15. -/
def Obligations.WrSlrrWritesItsFields : Prop :=
  ∀ (i : Slot) (v : Byte) (s : State), ∃ t, exec (.wrSlrr i v) s = .next t ∧
    t.oper i = { s.oper i with sl := v.extractLsb' 4 4, rr := v.extractLsb' 0 4 } ∧
    slv (t.oper i) = (if v.toNat / 16 = 15 then 496 else 16 * (v.toNat / 16)) ∧
    SameOtherOpers i s t ∧ t.g = s.g ∧ t.ch = s.ch ∧ SameHostSide s t

/-- R104: WR_WS writes the waveform of slot i while the gate is set, and changes nothing at all while it is
clear. -/
def Obligations.WrWsIsGatedByWavesel : Prop :=
  ∀ (i : Slot) (v : Byte) (s : State), ∃ t, exec (.wrWs i v) s = .next t ∧
    (s.g.wavesel = false → t = s) ∧
    (s.g.wavesel = true →
      t.oper i = { s.oper i with ws := v.extractLsb' 0 2 } ∧
      SameOtherOpers i s t ∧ t.g = s.g ∧ t.ch = s.ch ∧ SameHostSide s t)

/-! ## Keys and frequency -/

/-- R125: KEY_ON from a clear latch clears the phase and enters ATT; on a held latch it only sets its bit; the
attenuation never changes. -/
def Obligations.KeyOnRestartsOnlyFromClearLatch : Prop :=
  ∀ (b : BitVec 2) (o : Oper), b = 1#2 ∨ b = 2#2 →
    (o.key = 0#2 → keyOn b o = { o with cnt := 0#32, eg := .att, key := b }) ∧
    (o.key ≠ 0#2 → keyOn b o = { o with key := o.key ||| b })

/-- R126: KEY_OFF on a clear latch does nothing; else it clears its bit, and only a latch that becomes 0 moves
ATT, DEC and SUS to REL; attenuation and phase never change. -/
def Obligations.KeyOffReleasesOnlyWhenBothBitsClear : Prop :=
  ∀ (b : BitVec 2) (o : Oper), b = 1#2 ∨ b = 2#2 →
    (o.key = 0#2 → keyOff b o = o) ∧
    (o.key &&& ~~~b ≠ 0#2 → keyOff b o = { o with key := o.key &&& ~~~b }) ∧
    (o.key ≠ 0#2 → o.key &&& ~~~b = 0#2 →
      keyOff b o =
        { o with
          key := 0#2
          eg :=
            match o.eg with
            | .att => .rel
            | .dec => .rel
            | .sus => .rel
            | .rel => .rel
            | .off => .off })

/-- R122: FREQ_UPDATE with the held value changes nothing; another value is stored and latches the key code from
the block and the fnum bit NOTE-SEL chooses. -/
def Obligations.FreqUpdateLatchesKeyCodeOnChange : Prop :=
  ∀ (mode : Byte) (nbf : BitVec 13) (c : Chan),
    (nbf = c.blockFnum → freqUpdate mode nbf c = c) ∧
    (nbf ≠ c.blockFnum →
      freqUpdate mode nbf c =
        { c with blockFnum := nbf, kcode := (freqUpdate mode nbf c).kcode } ∧
      (freqUpdate mode nbf c).kcode.toNat =
        nbf.toNat / 1024 * 2 +
          (if mode.getLsbD 6 then nbf.toNat / 256 % 2 else nbf.toNat / 512 % 2))

/-- R120: WR_FNUML replaces block_fnum[7:0] of channel c through FREQ_UPDATE; no key action, and nothing else
changes. -/
def Obligations.WrFnumlUpdatesLowFrequency : Prop :=
  ∀ (c : Channel) (v : Byte) (s : State), ∃ t, exec (.wrFnuml c v) s = .next t ∧
    (∃ nbf : BitVec 13,
      nbf.toNat = (s.chan c).blockFnum.toNat / 256 * 256 + v.toNat ∧
      t.chan c = freqUpdate s.g.mode nbf (s.chan c) ∧
      (nbf = (s.chan c).blockFnum → t = s)) ∧
    SameOtherChans c s t ∧ t.op = s.op ∧ t.g = s.g ∧ SameHostSide s t

/-- R121: WR_KBF keys both slots of channel c on or off through latch bit 0, in rhythm mode as well, and replaces
block_fnum[12:8] through FREQ_UPDATE; nothing else changes. -/
def Obligations.WrKbfKeysBothSlotsAndUpdatesFrequency : Prop :=
  ∀ (c : Channel) (v : Byte) (s : State), ∃ t, exec (.wrKbf c v) s = .next t ∧
    (∃ nbf : BitVec 13,
      nbf.toNat = v.toNat % 32 * 256 + (s.chan c).blockFnum.toNat % 256 ∧
      t.chan c = freqUpdate s.g.mode nbf (s.chan c)) ∧
    SameOtherChans c s t ∧
    (∀ i : Slot,
      t.oper i =
        if i.val / 2 = c.val then
          (if v.getLsbD 5 then keyOn 1#2 (s.oper i) else keyOff 1#2 (s.oper i))
        else s.oper i) ∧
    t.g = s.g ∧ SameHostSide s t

/-- R124: WR_FBCON and its alias write fb and con of channel c and nothing else, and the address 0xD0 + c is the
alias exactly while ALIAS_D0 = true. -/
def Obligations.WrFbconAndAliasWriteFeedbackAndConnection : Prop :=
  (∀ (c : Channel) (v : Byte) (s : State), ∃ t,
    exec (.wrFbcon c v) s = .next t ∧ exec (.wrFbconAlias c v) s = .next t ∧
    t.chan c = { s.chan c with fb := v.extractLsb' 1 3, con := v.getLsbD 0 } ∧
    SameOtherChans c s t ∧ t.op = s.op ∧ t.g = s.g ∧ SameHostSide s t) ∧
  ∀ (cfg : Config) (c : Channel) (v : Byte),
    decode cfg (.write (commandWord false (BitVec.ofNat 8 (0xC0 + c.val)) v)) = .wrFbcon c v ∧
    (decode cfg (.write (commandWord false (BitVec.ofNat 8 (0xD0 + c.val)) v)) =
      .wrFbconAlias c v ↔ cfg.aliasD0 = true)

/-! ## Ignored writes, decoding and the step -/

/-- R147: a WRITE to bank 0 is ignored exactly at the listed addresses, a WRITE to another bank always, and an
ignored write answers the state it started from. -/
def Obligations.IgnoredWritesChangeNothing : Prop :=
  (∀ (cfg : Config) (a v : Byte),
    isIgnored (decode cfg (.write (commandWord false a v))) =
      ignoredAddress cfg.aliasD0 a.toNat ∧
    isIgnored (decode cfg (.write (commandWord true a v))) = true) ∧
  ∀ (i : Instr) (s : State), isIgnored i = true → exec i s = .next s

/-- R84: a WRITE whose bank is not 0 has no effect. That the step takes it from a queue is the model's choice (log
entry 1). -/
def Obligations.OtherBankWriteHasNoEffect : Prop :=
  ∀ (s : State) (bank addr data : Int) (rest : List HostOp),
    0 < bank → 0 ≤ addr → addr ≤ 255 → 0 ≤ data → data ≤ 255 →
    s.pending = .write bank addr data :: rest →
    step s = .next { s with pending := rest }

/-- R270 and R165: every instruction, from every state, answers a next state; only TICK returns anything, a pair of
equal 16-bit values. That the parameters and the queue are kept, by RESET as well, and that what a TICK returns is
appended to the observation, is the model's choice (log entries 1, 2, 3 and 16). -/
def Obligations.EveryOperationCompletes : Prop :=
  ∀ (i : Instr) (s : State), ∃ t, exec i s = .next t ∧
    t.cfg = s.cfg ∧ t.pending = s.pending ∧
    (i ≠ .tick → t.observed = s.observed) ∧
    (i = .tick → ∃ out : Int,
      t.observed = s.observed ++ [⟨out, out⟩] ∧ -32768 ≤ out ∧ out ≤ 32767)

/-- R83: the offset map is the printed table and its closed form, and OFF_OF is its inverse. -/
def Obligations.OffsetMapSelectsEachSlotOnce : Prop :=
  (∀ s : Slot, slotOf (offOf s) = some s) ∧
  (∀ (off : BitVec 5) (s : Slot), slotOf off = some s → off = offOf s) ∧
  (∀ off : BitVec 5,
    let r := off.toNat / 8
    let j := off.toNat % 8
    ((slotOf off).isSome = true ↔ r ≤ 2 ∧ j ≤ 5) ∧
    ∀ s : Slot, slotOf off = some s →
      (chanOf s).val = 3 * r + j % 3 ∧ s.val = 2 * (chanOf s).val + j / 3) ∧
  [0x00, 0x01, 0x02, 0x03, 0x04, 0x05, 0x08, 0x09, 0x0A, 0x0B, 0x0C, 0x0D, 0x10, 0x11, 0x12,
    0x13, 0x14, 0x15].map (fun k => slotOf (BitVec.ofNat 5 k)) =
    [0, 2, 4, 1, 3, 5, 6, 8, 10, 7, 9, 11, 12, 14, 16, 13, 15, 17].map some ∧
  ∀ off : BitVec 5,
    slotOf off = none ↔
      off.toNat ∈ [0x06, 0x07, 0x0E, 0x0F, 0x16, 0x17, 0x18, 0x19, 0x1A, 0x1B, 0x1C, 0x1D,
        0x1E, 0x1F]

/-- The decode of the encoding of a well-formed instruction is that instruction. -/
def Obligations.DecodeEncodeRoundTrip : Prop :=
  ∀ (cfg : Config) (i : Instr), wellFormed cfg i = true → decode cfg (encode i) = i

/-- R85: the decode is total, every word has one meaning, it is well formed, and encoding it gives the word
back. -/
def Obligations.EveryCommandWordHasOneMeaning : Prop :=
  ∀ (cfg : Config) (w : CmdWord),
    wellFormed cfg (decode cfg (.write w)) = true ∧ encode (decode cfg (.write w)) = .write w

/-- Words written out from the bit patterns of spec/opcode_table.json decode to the instructions they stand for.
`decodeTableWord` decodes under the default parameters, the model's choice (log entry 14), on which the alias word
rests. -/
def Obligations.SampleWordsDecode : Prop :=
  decodeTableWord 17 0b00000000100100000 = some (.wrTest 0x20#8) ∧
  decodeTableWord 17 0b00000001010101011 = some (.wrT1 0xAB#8) ∧
  decodeTableWord 17 0b00000001111001101 = some (.wrT2 0xCD#8) ∧
  decodeTableWord 17 0b00000010001111111 = some (.wrTctl 0x7F#8) ∧
  decodeTableWord 17 0b00000100011000000 = some (.wrMode 0xC0#8) ∧
  decodeTableWord 17 0b00100001111000101 = some (.wrKsltl 1 0xC5#8) ∧
  decodeTableWord 17 0b01010100011111111 = some (.wrFnuml 8 0xFF#8) ∧
  decodeTableWord 17 0b01011000000110010 = some (.wrKbf 0 0x32#8) ∧
  decodeTableWord 17 0b01011110111100000 = some (.wrRhy 0xE0#8) ∧
  decodeTableWord 17 0b01101001100000101 = some (.wrFbconAlias 3 0x05#8) ∧
  decodeTableWord 17 0b10010000011111111 = some (.ignoredBank 0x20#8 0xFF#8)

/-- A step performs the decoded oldest pending operation on the state without it (R20, R69, R81); with nothing
pending the unit holds its state (R282). That the host's queue stands in the state is the model's choice (log
entry 1). -/
def Obligations.StepPerformsTheNextOperation : Prop :=
  (∀ (s : State) (op : HostOp) (rest : List HostOp) (cmd : Command),
    s.pending = op :: rest → transcribe op = .ok cmd →
    step s = exec (decode s.cfg cmd) { s with pending := rest }) ∧
  (∀ s : State, s.pending = [] → step s = .next s) ∧
  ∀ bank addr data : Int, 0 ≤ bank → 0 ≤ addr → addr ≤ 255 → 0 ≤ data → data ≤ 255 →
    ∃ w : CmdWord, transcribe (.write bank addr data) = .ok (.write w) ∧
      w.toNat = (if bank = 0 then 0 else 65536) + addr.toNat * 256 + data.toNat

/-- R271: an operand outside the domain is refused by name and never reduced. That the refusal is the first stage of
the step, and that bank, address and data are checked in this order, is the model's choice (log entry 4). -/
def Obligations.OperandsOutsideDomainAreRefused : Prop :=
  ∀ (s : State) (bank addr data : Int) (rest : List HostOp),
    s.pending = .write bank addr data :: rest →
    ((bank < 0 → step s = .refused (.outsideDomain (.negativeBank bank))) ∧
    (0 ≤ bank → addr < 0 ∨ 255 < addr → step s = .refused (.outsideDomain (.addrNotByte addr))) ∧
    (0 ≤ bank → 0 ≤ addr → addr ≤ 255 → data < 0 ∨ 255 < data →
      step s = .refused (.outsideDomain (.dataNotByte data))) ∧
    (0 ≤ bank → 0 ≤ addr → addr ≤ 255 → 0 ≤ data → data ≤ 255 → ∃ t, step s = .next t))

/-- R89: the pseudo-instructions expand to exactly the writes listed, read back through the transcriber and the
decoder. -/
def Obligations.PseudoInstructionsExpandAsListed : Prop :=
  ∀ (cfg : Config) (c : Channel) (i : Slot) (blk : BitVec 3) (fn : BitVec 10)
    (a b d e w : Byte) (fb : BitVec 3) (con : Bool),
    let instrs (l : Line) : List (Except OperandError Instr) :=
      (expandLine l).map fun op => (transcribe op).map (decode cfg)
    instrs (.keyOn c blk fn) =
      [.ok (.wrFnuml c (fn.setWidth 8)),
        .ok (.wrKbf c (BitVec.ofNat 8 (0x20 + 4 * blk.toNat + fn.toNat / 256)))] ∧
    instrs (.keyOff c blk fn) =
      [.ok (.wrKbf c (BitVec.ofNat 8 (4 * blk.toNat + fn.toNat / 256)))] ∧
    instrs (.opSet i a.toNat b.toNat d.toNat e.toNat) =
      [.ok (.wrAvekm i a), .ok (.wrKsltl i b), .ok (.wrArdr i d), .ok (.wrSlrr i e)] ∧
    instrs (.wave i w.toNat) = [.ok (.wrTest 0x20#8), .ok (.wrWs i w)] ∧
    instrs (.chCfg c fb.toNat con.toNat) =
      [.ok (.wrFbcon c (BitVec.ofNat 8 (2 * fb.toNat + con.toNat)))] ∧
    instrs (.rhy a.toNat) = [.ok (.wrRhy a)]

/-! ## TICK -/

/-- R161, R162, R181 (their counters): a TICK advances the three counters by one, each with its own wrap, and
changes no other global field but the noise register, and no channel. -/
def Obligations.TickAdvancesCounters : Prop :=
  ∀ s : State, ∃ t, exec .tick s = .next t ∧
    t.g.amCnt.val = (s.g.amCnt.val + 1) % 13440 ∧
    t.g.pmCnt.toNat = (s.g.pmCnt.toNat + 1) % 8192 ∧
    t.g.egCnt.toNat = (s.g.egCnt.toNat + 1) % 2 ^ 32 ∧
    t.g =
      { s.g with
        amCnt := t.g.amCnt
        pmCnt := t.g.pmCnt
        egCnt := t.g.egCnt
        noise := t.g.noise } ∧
    t.ch = s.ch

/-- R163: one shift per TICK with the mask XORed in while bit 0 is set, which for the default mask is the
equivalent 23-bit form; a nonzero register stays nonzero under a mask whose bit 23 is set, as the default mask's is
(the premise is the model's deduction, log entry 17), and zero stays zero. -/
def Obligations.TickShiftsNoiseRegister : Prop :=
  ∀ s : State, ∃ t, exec .tick s = .next t ∧
    t.g.noise.toNat =
      (if s.g.noise.toNat % 2 = 1 then (s.g.noise.toNat ^^^ s.cfg.noiseMask.toNat) / 2
        else s.g.noise.toNat / 2) ∧
    (s.cfg.noiseMask = 0x800302#24 →
      t.g.noise = (s.g.noise >>> 1) ^^^ (if s.g.noise.getLsbD 0 then 0x400181#23 else 0#23)) ∧
    (s.cfg.noiseMask.getLsbD 23 = true → s.g.noise ≠ 0#23 → t.g.noise ≠ 0#23) ∧
    (s.g.noise = 0#23 → t.g.noise = 0#23)

/-- R181: a TICK advances the envelope counter once and steps every operator's envelope with the advanced
counter; of an operator's other fields it changes only the phase accumulator and the history. -/
def Obligations.TickStepsEveryEnvelope : Prop :=
  ∀ s : State, ∃ t, exec .tick s = .next t ∧ t.g.egCnt = s.g.egCnt + 1#32 ∧
    ∀ i : Slot,
      t.oper i =
        { s.oper i with
          vol := (egStep (s.g.egCnt + 1#32) (s.chanAt i) (s.oper i)).vol
          eg := (egStep (s.g.egCnt + 1#32) (s.chanAt i) (s.oper i)).eg
          cnt := (t.oper i).cnt
          o0 := (t.oper i).o0
          o1 := (t.oper i).o1 }

/-- R183 to R187: the envelope FSM, phase by phase, for a step that is due and one that is not. The DEC row
assumes an attenuation below the largest sustain level, which `StepKeepsDecayBelowSustain` shows of every
state a run reaches. -/
def Obligations.EnvelopeStepFollowsTransitionTable : Prop :=
  ∀ (n : BitVec 32) (c : Chan) (o : Oper),
    egStep n c o = { o with vol := (egStep n c o).vol, eg := (egStep n c o).eg } ∧
    (o.eg = .off → egStep n c o = o) ∧
    (o.eg = .sus → o.egt = true → egStep n c o = o) ∧
    (stepDue n c o o.eg = none → egStep n c o = o) ∧
    ∀ inc : Nat, stepDue n c o o.eg = some inc →
      (o.eg = .att →
        let v : Int := o.vol.toNat + (((-(o.vol.toNat : Int) - 1) * inc) >>> (3 : Nat))
        (v ≤ 0 → egStep n c o = { o with vol := 0#9, eg := .dec }) ∧
        (0 < v → ((egStep n c o).vol.toNat : Int) = v ∧ (egStep n c o).eg = .att)) ∧
      (o.eg = .dec → o.vol.toNat < 496 →
        (egStep n c o).vol.toNat = o.vol.toNat + inc ∧
        (egStep n c o).eg = if slv o ≤ o.vol.toNat + inc then .sus else .dec) ∧
      (o.eg = .sus → o.egt = false →
        (egStep n c o).vol.toNat = min (o.vol.toNat + inc) 511 ∧ (egStep n c o).eg = .sus) ∧
      (o.eg = .rel →
        (511 ≤ o.vol.toNat + inc → egStep n c o = { o with vol := 511#9, eg := .off }) ∧
        (o.vol.toNat + inc < 511 →
          (egStep n c o).vol.toNat = o.vol.toNat + inc ∧ (egStep n c o).eg = .rel))

/-- R182 with R260 and R261, and R189. The rate field of each phase; a zero rate is due with increment 0; at rate index
78 and above an attack is due with increment 8; otherwise a step is due exactly at the multiples of 2^sh, with the
increment of the pattern's row at (n >> sh) & 7, where sh is 12 - ((idx - 16) >> 2) up to index 67 and 0 above, and
the row is R261's; the patterns are R260's. Outside ATT an increment is at most 4. -/
def Obligations.EnvelopeStepsAreDueAtPowersOfTwo : Prop :=
  (∀ o : Oper, rateField o .att = some o.ar ∧ rateField o .dec = some o.dr ∧
    rateField o .sus = some o.rr ∧ rateField o .rel = some o.rr ∧ rateField o .off = none) ∧
  (∀ (n : BitVec 32) (c : Chan) (o : Oper) (p : EgPhase) (r : BitVec 4),
    rateField o p = some r →
    (r = 0#4 → stepDue n c o p = some 0) ∧
    (p ≠ .att → ∀ inc, stepDue n c o p = some inc → inc ≤ 4) ∧
    (r ≠ 0#4 →
      let idx := 16 + 4 * r.toNat + ksrv c o
      let sh := if idx ≤ 67 then 12 - (idx - 16) / 4 else 0
      let row :=
        if idx ≤ 67 then (idx - 16) % 4
        else if idx ≤ 71 then 4 + (idx - 68)
        else if idx ≤ 75 then 8 + (idx - 72)
        else 12
      (78 ≤ idx → p = .att → stepDue n c o p = some 8) ∧
      (idx < 78 ∨ p ≠ .att →
        stepDue n c o p =
          if n.toNat % 2 ^ sh = 0 then some (egInc row (n.toNat / 2 ^ sh % 8)) else none))) ∧
  (List.range 15).map (fun row => (List.range 8).map (egInc row)) =
    [[0, 1, 0, 1, 0, 1, 0, 1], [0, 1, 0, 1, 1, 1, 0, 1], [0, 1, 1, 1, 0, 1, 1, 1],
      [0, 1, 1, 1, 1, 1, 1, 1], [1, 1, 1, 1, 1, 1, 1, 1], [1, 1, 1, 2, 1, 1, 1, 2],
      [1, 2, 1, 2, 1, 2, 1, 2], [1, 2, 2, 2, 1, 2, 2, 2], [2, 2, 2, 2, 2, 2, 2, 2],
      [2, 2, 2, 4, 2, 2, 2, 4], [2, 4, 2, 4, 2, 4, 2, 4], [2, 4, 4, 4, 2, 4, 4, 4],
      [4, 4, 4, 4, 4, 4, 4, 4], [8, 8, 8, 8, 8, 8, 8, 8], [0, 0, 0, 0, 0, 0, 0, 0]]

/-- R200 with R201 and R31: a TICK adds FC(bf) * MUL to every accumulator modulo 2^32, bf being block_fnum, plus
the vibrato offset of this TICK's LFO step where the operator has vibrato. -/
def Obligations.TickAdvancesEveryPhase : Prop :=
  ∀ s : State, ∃ t, exec .tick s = .next t ∧ ∀ i : Slot,
    let bf := (s.chanAt i).blockFnum.toNat
    let lfo := (s.g.pmCnt.toNat + 1) % 8192 / 1024
    let bf' : Int := if (s.oper i).vib then bf + pmTab (bf / 128 % 8) s.g.pmDepth lfo else bf
    (t.oper i).cnt.toNat =
      ((s.oper i).cnt.toNat +
        (bf' % 1024).toNat * 2 ^ (5 + (bf' / 1024 % 8).toNat) * mulTab (s.oper i).mult) % 2 ^ 32

/-- R32 to R34, R210, R161 and R201, with the shapes of the tables of R258, R262 and R263: the increment and its bound;
the rate-scaling value; the total level and its range, for every value of the parameters, the key-scale table losing
32 an octave down from its last row; the attenuation of step 4, which adds the envelope and, with tremolo, LFO_AM, the
table value at the AM position or a quarter of it, the table being a triangle with peak 26; the vibrato offset, a
triangle over the eight LFO steps whose peak is fnum[9:7], halved at the shallow depth; an offset other than 0 needs
fnum >= 128, lies within +-7, and a negative one cannot borrow from the block. -/
def Obligations.DerivedValueAndVibratoRanges : Prop :=
  (∀ (cfg : Config) (c : Chan) (o : Oper),
    incrOf c o =
      (c.blockFnum.toNat % 1024) * 2 ^ (5 + c.blockFnum.toNat / 1024) * mulTab o.mult ∧
    incrOf c o < 2 ^ 27 ∧
    ksrv c o = (if o.ksr then c.kcode.toNat else c.kcode.toNat / 4) ∧
    tll cfg c o =
      4 * o.tl.toNat + kslTab (c.blockFnum.toNat / 64) / 2 ^ cfg.kslShift[o.ksl.toNat] ∧
    tll cfg c o ≤ 476) ∧
  (∀ (s : State) (i : Slot),
    let raw := amTab (s.g.amCnt.val / 64)
    let am := if s.g.amDepth then raw else raw / 4
    volOf s i =
      tll s.cfg (s.chanAt i) (s.oper i) + (s.oper i).vol.toNat + (if (s.oper i).am then am else 0) ∧
    raw ≤ 26 ∧ volOf s i ≤ 1013) ∧
  (∀ block col : Nat, block < 8 → col < 16 →
    kslTab (16 * block + col) =
      [0, 96, 128, 148, 160, 172, 180, 188, 192, 200, 204, 208, 212, 216, 220, 224].getD col 0 -
        32 * (7 - block)) ∧
  (∀ k : Nat, k < 210 →
    amTab k =
      if k < 7 then 0 else if k < 107 then 1 + (k - 7) / 4 else if k < 110 then 26
      else 25 - (k - 110) / 4) ∧
  (∀ (g : Glob) (bf : BitVec 13),
    let f : Int := (bf.toNat / 128 % 8 : Nat)
    let a := if g.pmDepth then f else f / 2
    let b := a / 2
    pmOff g bf = [a, b, 0, -b, -a, -b, 0, b].getD (g.pmCnt.toNat / 1024) 0) ∧
  ∀ (g : Glob) (bf : BitVec 13),
    -7 ≤ pmOff g bf ∧ pmOff g bf ≤ 7 ∧
    (pmOff g bf ≠ 0 → 128 ≤ bf.toNat % 1024) ∧
    (pmOff g bf < 0 → ((bf.toNat : Int) + pmOff g bf) / 1024 = ((bf.toNat / 1024 : Nat) : Int))

/-- R214, R216, R217: a melodic channel. The modulator's value that reaches the carrier (con = 0) or the sum
(con = 1) is the output of the TICK before; the history of operator 1 moves on by one, and nothing else
changes. -/
def Obligations.MelodicChannelUsesModulatorOneTickLate : Prop :=
  ∀ (s : State) (c : Channel),
    let m := s.oper (op1Of c)
    let k := s.oper (op2Of c)
    let carrier (pm : Int) : Int :=
      if volOf s (op2Of c) < 384 then opCalc k.cnt (volOf s (op2Of c)) pm k.ws else 0
    (channelOut s c).2 = (if (s.chan c).con then m.o1 + carrier 0 else carrier m.o1) ∧
    (channelOut s c).1.oper (op1Of c) =
      { m with
        o0 := m.o1
        o1 :=
          if volOf s (op1Of c) < 384 then
            opCalc m.cnt (volOf s (op1Of c)) (fbOff (s.chan c).fb (m.o0 + m.o1)) m.ws
          else 0 } ∧
    SameOtherOpers (op1Of c) s (channelOut s c).1 ∧
    (channelOut s c).1.g = s.g ∧ (channelOut s c).1.ch = s.ch ∧
    SameHostSide s (channelOut s c).1

/-- R215: the feedback offset is 0 for fb = 0, else a flooring shift by 9 - fb, and at most 2042 in magnitude for
outputs in their range. -/
def Obligations.FeedbackOffsetIsFlooringShift : Prop :=
  ∀ (fb : BitVec 3) (fbin : Int),
    (fb = 0#3 → fbOff fb fbin = 0) ∧
    (fb ≠ 0#3 → fbOff fb fbin = fbin >>> (9 - fb.toNat)) ∧
    (-8168 ≤ fbin → fbin ≤ 8168 → -2042 ≤ fbOff fb fbin ∧ fbOff fb fbin ≤ 2042)

/-- R218: from attenuation 384 on OPCALC is 0, so the quiet test changes no result. -/
def Obligations.QuietOperatorIsSilent : Prop :=
  (∀ (phase : BitVec 32) (env : Nat) (pm : Int) (w : BitVec 2),
    384 ≤ env → opCalc phase env pm w = 0) ∧
  (∀ (s : State) (i : Slot) (phase : BitVec 32) (pm : Int),
    operOutput s i phase pm = opCalc phase (volOf s i) pm (s.oper i).ws) ∧
  ∀ (s : State) (c : Channel),
    modOutput s c =
      opCalc (s.oper (op1Of c)).cnt (volOf s (op1Of c))
        (fbOff (s.chan c).fb ((s.oper (op1Of c)).o0 + (s.oper (op1Of c)).o1))
        (s.oper (op1Of c)).ws

/-- The ranges of R219: an operator, a channel, the rhythm part and the accumulator, for histories in their range;
and some state that meets these invariants in which the clip acts (no run to such a state is shown). -/
def Obligations.OutputAccumulatorRanges : Prop :=
  (∀ (phase : BitVec 32) (env : Nat) (pm : Int) (w : BitVec 2),
    InOutputRange (opCalc phase env pm w)) ∧
  (∀ s : State, HistoryInv s →
    (∀ c : Channel, -8168 ≤ (channelOut s c).2 ∧ (channelOut s c).2 ≤ 8168) ∧
    (-40840 ≤ (rhythmOut s).2 ∧ (rhythmOut s).2 ≤ 40840) ∧
    (s.g.rhythm = false → -73512 ≤ (mixAcc s).2 ∧ (mixAcc s).2 ≤ 73512) ∧
    (s.g.rhythm = true → -89848 ≤ (mixAcc s).2 ∧ (mixAcc s).2 ≤ 89848)) ∧
  ∃ s : State, HistoryInv s ∧ KeyPhaseInv s ∧ 32767 < (mixAcc s).2

/-- R211, R220 and R165: what a TICK returns is the clipped sum of the voices, each evaluated in the state steps 1
to 3 leave: no voice sees what another voice of the same TICK has written. That the pair is appended to the
observation is the model's choice (log entry 2). -/
def Obligations.TickReturnsClippedSumOfIndependentVoices : Prop :=
  ∀ s : State, ∃ t, exec .tick s = .next t ∧
    let u := tickAdvance s
    let melodic : List Channel :=
      if s.g.rhythm then [0, 1, 2, 3, 4, 5] else [0, 1, 2, 3, 4, 5, 6, 7, 8]
    let acc := (melodic.map fun c => (channelOut u c).2).sum +
      (if s.g.rhythm then (rhythmOut u).2 else 0)
    let out := min (max acc (-32768)) 32767
    t.observed = s.observed ++ [⟨out, out⟩]

/-- R221 and the second sentence of R222: step 4 writes only feedback histories of operators 1, and in rhythm mode
those of slots 14 and 16 stay; a TICK's operators are those step 4 leaves after steps 1 to 3. -/
def Obligations.OutputStepWritesOnlyModulatorHistories : Prop :=
  ∀ s : State,
    (step4Output s).1.g = s.g ∧ (step4Output s).1.ch = s.ch ∧
    SameHostSide s (step4Output s).1 ∧
    (∀ c : Channel, (step4Output s).1.oper (op2Of c) = s.oper (op2Of c)) ∧
    (∀ c : Channel, c.val ≤ 6 ∨ s.g.rhythm = false →
      (step4Output s).1.oper (op1Of c) =
        { s.oper (op1Of c) with o0 := (s.oper (op1Of c)).o1, o1 := modOutput s c }) ∧
    (s.g.rhythm = true →
      (step4Output s).1.oper 14 = s.oper 14 ∧ (step4Output s).1.oper 16 = s.oper 16) ∧
    ∃ t, exec .tick s = .next t ∧ t.op = (step4Output (tickAdvance s)).1.op ∧
      t.g = (tickAdvance s).g ∧ t.ch = s.ch

/-- R231 to R237: the rhythm sum in terms of the five voices, their phase bits, the noise bit and their
waveform indices; the history of slot 12 moves on by one, and nothing else changes. -/
def Obligations.RhythmSumFollowsVoiceRules : Prop :=
  ∀ s : State,
    let nb := s.g.noise.getLsbD 0
    let p7 (k : Nat) : Bool := (s.oper 14).cnt.getLsbD (16 + k)
    let p8 (k : Nat) : Bool := (s.oper 17).cnt.getLsbD (16 + k)
    let res1 := (p7 2 ^^ p7 7) || p7 3
    let res2 := p8 3 ^^ p8 5
    let voice (i : Slot) (phase : BitVec 32) (pm : Int) : Int :=
      if volOf s i < 384 then 2 * opCalc phase (volOf s i) pm (s.oper i).ws else 0
    let bd := voice 13 (s.oper 13).cnt (if (s.chan 6).con then 0 else (s.oper 12).o1)
    let hh := voice 14
      (if res1 || res2 then (if nb then 0x02D00000#32 else 0x02340000#32)
        else (if nb then 0x00340000#32 else 0x00D00000#32)) 0
    let sd := voice 15
      (if p7 8 then (if nb then 0x03000000#32 else 0x02000000#32)
        else (if nb then 0x00000000#32 else 0x01000000#32)) 0
    let tom := voice 16 (s.oper 16).cnt 0
    let tc := voice 17 (if res1 || res2 then 0x03000000#32 else 0x01000000#32) 0
    (rhythmOut s).2 = bd + hh + sd + tom + tc ∧
    (rhythmOut s).1.oper 12 =
      { s.oper 12 with o0 := (s.oper 12).o1, o1 := modOutput s 6 } ∧
    SameOtherOpers 12 s (rhythmOut s).1 ∧ (rhythmOut s).1.g = s.g ∧
    (rhythmOut s).1.ch = s.ch ∧ SameHostSide s (rhythmOut s).1

/-- R251, R252 and R212, with the remark of R237. SINTAB of each waveform in terms of the log-sine S0, S0 in terms of
SINMAG, and TLTAB in terms of TLBASE; OPCALC in terms of SINTAB and TLTAB, at a waveform index that wraps at 1024 in
the modulation and reads bits 25:16 of the phase alone, with the three values R212 gives as examples. Their checks:
the symmetries and the peak of S0, the range of every waveform, the alternating sign of TLTAB, which is never 0 in
its domain. At waveform 0 the top-cymbal's two indices are the peaks of the sine, with opposite values. -/
def Obligations.WaveTablesMeetTheirChecks : Prop :=
  (∀ i : Nat, i < 1024 →
    sinTab 0#2 i = s0 i ∧
    sinTab 1#2 i = (if i < 512 then s0 i else 6144) ∧
    sinTab 2#2 i = (if i < 512 then s0 i else s0 (i - 512)) ∧
    sinTab 3#2 i =
      (if i < 256 then s0 i else if i < 512 then 6144
        else if i < 768 then s0 (i - 512) else 6144) ∧
    s0 i =
      (if i < 256 then 2 * sinMag i else if i < 512 then 2 * sinMag (511 - i)
        else if i < 768 then 2 * sinMag (i - 512) + 1 else 2 * sinMag (1023 - i) + 1)) ∧
  (∀ p : Nat, p < 6144 →
    let v : Int := (tlBase (p % 512 / 2) / 2 ^ (p / 512) : Nat)
    tlTab p = if p % 2 = 0 then v else -v) ∧
  (∀ (phase : BitVec 32) (env : Nat) (pm : Int) (w : BitVec 2),
    (∀ i : Nat, i < 1024 → (i : Int) = ((phase.toNat / 65536 : Nat) + pm) % 1024 →
      (6144 ≤ env * 16 + sinTab w i → opCalc phase env pm w = 0) ∧
      (env * 16 + sinTab w i < 6144 → opCalc phase env pm w = tlTab (env * 16 + sinTab w i))) ∧
    opCalc phase env (pm + 1024) w = opCalc phase env pm w ∧
    opCalc (phase &&& 0x03FF0000#32) env pm w = opCalc phase env pm w) ∧
  opCalc 0x01000000#32 0 0 0#2 = 4084 ∧ opCalc 0x03000000#32 0 0 0#2 = -4084 ∧
  opCalc 0#32 0 0 0#2 = 12 ∧
  (∀ i : Nat, i < 512 → s0 i = s0 (511 - i) ∧ s0 (i + 512) = s0 i + 1 ∧ s0 i % 2 = 0) ∧
  (∀ i : Nat, i < 1024 → s0 i ≤ s0 512) ∧ s0 512 = 4275 ∧
  (∀ (w : BitVec 2) (i : Nat), sinTab w i ≤ 6144) ∧
  (∀ p : Nat, p < 6144 → tlTab p ≠ 0 ∧ (p % 2 = 0 → tlTab (p + 1) = -tlTab p)) ∧
  ∀ env : Nat, env < 384 →
    opCalc 0x01000000#32 env 0 0#2 = tlTab (env * 16) ∧
    opCalc 0x03000000#32 env 0 0#2 = -tlTab (env * 16)

/-! ## Whole-machine rules -/

/-- R187: OFF is left only by KEY_ON, whatever the instruction, and a TICK leaves the envelope of an operator in OFF
as it is. -/
def Obligations.OffIsLeftOnlyByKeyOn : Prop :=
  (∀ (i : Instr) (s t : State) (k : Slot), exec i s = .next t →
    (s.oper k).eg = .off → (t.oper k).eg ≠ .off →
    keysOn k i = true ∧ (s.oper k).key = 0#2 ∧ (t.oper k).eg = .att) ∧
  ∀ (s : State) (k : Slot), (s.oper k).eg = .off →
    ∃ t, exec .tick s = .next t ∧ (t.oper k).eg = .off ∧ (t.oper k).vol = (s.oper k).vol

/-- R188: without a KEY_ON of the operator, no instruction moves its envelope phase up the order
OFF < REL < SUS < DEC < ATT. -/
def Obligations.EnvelopePhaseNeverRegresses : Prop :=
  ∀ (i : Instr) (s t : State) (k : Slot), exec i s = .next t → keysOn k i = false →
    egRank (t.oper k).eg ≤ egRank (s.oper k).eg

/-- R203: the phase accumulator is written only by TICK, by RESET and by a KEY_ON on a clear latch, which clears
it; and the first TICK after a clear leaves one increment, with the vibrato offset of that TICK. -/
def Obligations.PhaseAccumulatorHasThreeWriters : Prop :=
  (∀ (i : Instr) (s t : State) (k : Slot), exec i s = .next t →
    (t.oper k).cnt ≠ (s.oper k).cnt →
    i = .tick ∨ (i = .reset ∧ (t.oper k).cnt = 0#32) ∨
      (keysOn k i = true ∧ (s.oper k).key = 0#2 ∧ (t.oper k).cnt = 0#32)) ∧
  ∀ (s : State) (k : Slot), (s.oper k).cnt = 0#32 →
    ∃ t, exec .tick s = .next t ∧
      (t.oper k).cnt.toNat =
        fc (vibratoFnum t.g (s.chanAt k) (s.oper k)) * mulOf (s.oper k) ∧
      ((s.oper k).vib = false → (t.oper k).cnt.toNat = incrOf (s.chanAt k) (s.oper k))

/-- R306, last point: a key-on is stepped in the same TICK's step 2, so with the instant attack a restarted
operator is at full level, in DEC, after that one TICK. -/
def Obligations.InstantAttackReachesFullLevelInOneTick : Prop :=
  ∀ (s : State) (k : Slot), (s.oper k).eg = .att →
    78 ≤ rateIndex (s.oper k).ar (ksrv (s.chanAt k) (s.oper k)) →
    ∃ t, exec .tick s = .next t ∧ (t.oper k).vol = 0#9 ∧ (t.oper k).eg = .dec

/-- R66, first sentence: every WRITE is idempotent. -/
def Obligations.EveryWriteIsIdempotent : Prop :=
  ∀ (i : Instr) (s : State), isWrite i = true → ∃ t, exec i s = .next t ∧ exec i t = .next t

/-- R302: the two WRITEs of a frequency may come in either order, with the same final state. -/
def Obligations.FrequencyWritesCommute : Prop :=
  ∀ (c : Channel) (lo hi : Byte) (s : State), ∃ a b t,
    exec (.wrFnuml c lo) s = .next a ∧ exec (.wrKbf c hi) a = .next t ∧
    exec (.wrKbf c hi) s = .next b ∧ exec (.wrFnuml c lo) b = .next t ∧
    (t.chan c).blockFnum.toNat = hi.toNat % 32 * 256 + lo.toNat

/-- R303: a melodic key-on of a held slot leaves its envelope and phase; a key-off and then a key-on of a slot no
rhythm key holds restarts it at ATT with phase 0. -/
def Obligations.RetriggerNeedsKeyOff : Prop :=
  ∀ (c : Channel) (on off : Byte) (s : State) (k : Slot),
    on.getLsbD 5 = true → off.getLsbD 5 = false → chanOf k = c →
    ((s.oper k).key ≠ 0#2 → ∃ t, exec (.wrKbf c on) s = .next t ∧
      (t.oper k).eg = (s.oper k).eg ∧ (t.oper k).cnt = (s.oper k).cnt ∧
      (t.oper k).vol = (s.oper k).vol) ∧
    ((s.oper k).key.getLsbD 1 = false → ∃ t u, exec (.wrKbf c off) s = .next t ∧
      exec (.wrKbf c on) t = .next u ∧ (u.oper k).eg = .att ∧ (u.oper k).cnt = 0#32 ∧
      (u.oper k).vol = (s.oper k).vol ∧ (u.oper k).key = 1#2)

/-- R304: a WRITE breaks the host's duty exactly when it decodes to a melodic key-on of channel 6, 7 or 8 while
rhythm mode is on, and the unit performs it, setting latch bit 0 of both slots. -/
def Obligations.RhythmDutyIsTheHostsAlone : Prop :=
  (∀ (s : State) (bank addr data : Int) (cmd : Command),
    transcribe (.write bank addr data) = .ok cmd →
    (breaksRhythmDuty s (.write bank addr data) = true ↔
      s.g.rhythm = true ∧ ∃ (c : Channel) (v : Byte),
        6 ≤ c.val ∧ v.getLsbD 5 = true ∧ decode s.cfg cmd = .wrKbf c v)) ∧
  ∀ (s : State) (c : Channel) (v : Byte), 6 ≤ c.val → s.g.rhythm = true → v.getLsbD 5 = true →
    ∃ t, exec (.wrKbf c v) s = .next t ∧
      ∀ k : Slot, chanOf k = c → (t.oper k).key = (s.oper k).key ||| 1#2

/-- R292: silence. RESET leaves a silent state; from a silent state every instruction that keys nothing on leaves
a silent state, and a TICK returns (0, 0). -/
def Obligations.SilenceLastsUntilKeyOn : Prop :=
  (∀ s : State, ∃ t, exec .reset s = .next t ∧ Silent t) ∧
  ∀ (i : Instr) (s : State), Silent s → (∀ k : Slot, keysOn k i = false) →
    ∃ t, exec i s = .next t ∧ Silent t ∧
      (i = .tick → t.observed = s.observed ++ [⟨0, 0⟩])

/-- R272, R144 and 93_implementation_defined.md Part 1: the timer fields, the status, the last drum bits and the
mode bits other than NOTE-SEL reach no output: states that differ only there stay so and return the same
samples. -/
def Obligations.UnreadFieldsNeverReachTheOutput : Prop :=
  ∀ (i : Instr) (s t : State), SameReadFields s t →
    ∃ s' t', exec i s = .next s' ∧ exec i t = .next t' ∧ SameReadFields s' t'

/-- R202: bits 31:26 of the phase accumulators reach no output: states that differ only there stay so and return
the same samples. -/
def Obligations.PhaseBitsAbove25NeverReachTheOutput : Prop :=
  ∀ (i : Instr) (s t : State), SamePhaseLow26 s t →
    ∃ s' t', exec i s = .next s' ∧ exec i t = .next t' ∧ SamePhaseLow26 s' t'

/-- R278: bits 31:15 of the envelope counter reach no output, so its wrap changes no result. -/
def Obligations.EnvelopeCounterWrapChangesNoResult : Prop :=
  ∀ (i : Instr) (s t : State), SameEnvelopeCounterLow15 s t →
    ∃ s' t', exec i s = .next s' ∧ exec i t = .next t' ∧ SameEnvelopeCounterLow15 s' t'

/-! ## Invariants -/

/-- The invariants below hold in the reset state. -/
def Obligations.ResetStateMeetsInvariants : Prop :=
  KeyPhaseInv State.reset ∧ DecayBelowInv State.reset ∧ HistoryInv State.reset ∧
  TimerInv State.reset ∧ NoiseInv State.reset ∧ Silent State.reset

/-- R38: every step keeps the agreement of key latch, envelope phase and attenuation. -/
def Obligations.StepKeepsKeyPhaseAgreement : Prop :=
  ∀ s t : State, KeyPhaseInv s → step s = .next t → KeyPhaseInv t

/-- R184: every step keeps an operator in DEC below the largest sustain level. -/
def Obligations.StepKeepsDecayBelowSustain : Prop :=
  ∀ s t : State, DecayBelowInv s → step s = .next t → DecayBelowInv t

/-- R27 and R222: every step keeps the feedback histories in range, and those of operators 2 at 0. -/
def Obligations.StepKeepsFeedbackHistory : Prop :=
  ∀ s t : State, HistoryInv s → step s = .next t → HistoryInv t

/-- R25: every step keeps the status flags clear and tctl within its four bits. -/
def Obligations.StepKeepsTimerFlagsClear : Prop :=
  ∀ s t : State, TimerInv s → step s = .next t → TimerInv t

/-- R38 and R163: every step keeps the noise register nonzero, for a nonzero seed and a mask whose bit 23 is
set. -/
def Obligations.StepKeepsNoiseNonzero : Prop :=
  ∀ s t : State, NoiseInv s → step s = .next t → NoiseInv t
end

