-- ==== Sys2Proof/Laws/Decode.lean ====
section
/-! SUPPORT. The pieces of decoding: the two directions of R83's slot map, the fields of a command word, and what
the transcriber answers. -/

namespace Sys2Proof

open Sys2Proof.Machine

@[simp] theorem slotOf_offOf (s : Slot) : slotOf (offOf s) = some s := by
  revert s; decide

/-- An offset that selects a slot is that slot's offset (R83). -/
theorem offOf_of_slotOf {off : BitVec 5} {s : Slot} (h : slotOf off = some s) : offOf s = off := by
  have key : ∀ o : BitVec 5, ∀ t : Slot, slotOf o = some t → offOf t = o := by decide +kernel
  exact key off s h

@[simp] theorem channelOf_ofNat (c : Channel) : channelOf (BitVec.ofNat 4 c.val) = some c := by
  revert c; decide

/-- A channel field that selects a channel is that channel's number. -/
theorem ofNat_of_channelOf {c : BitVec 4} {ch : Channel} (h : channelOf c = some ch) :
    BitVec.ofNat 4 ch.val = c := by
  have key : ∀ b : BitVec 4, ∀ t : Channel, channelOf b = some t → BitVec.ofNat 4 t.val = b := by
    decide +kernel
  exact key c ch h

/-- A channel field selects no channel exactly above 8 (R85). -/
theorem channelOf_eq_none (c : BitVec 4) : channelOf c = none ↔ 8 < c.toNat := by
  unfold channelOf; split <;> simp <;> omega

section Word
variable (b : Bool) (addr data : Byte)

/-- Bit i of a command word (R81). -/
theorem commandWord_getLsbD (i : Nat) :
    (commandWord b addr data).getLsbD i =
      if i < 8 then data.getLsbD i
      else if i < 16 then addr.getLsbD (i - 8) else (decide (i = 16) && b) := by
  simp only [commandWord, BitVec.getLsbD_cast, BitVec.getLsbD_append, BitVec.getLsbD_ofBool]
  by_cases h8 : i < 8
  · simp [h8]
  · by_cases h16 : i < 16
    · have : i - 8 < 8 := by omega
      simp [h8, h16, this]
    · have : ¬ i - 8 < 8 := by omega
      have e : i - 8 - 8 = 0 ↔ i = 16 := by omega
      simp [h8, h16, this, e]

@[simp] theorem commandWord_bank : (commandWord b addr data).getLsbD 16 = b := by
  simp only [commandWord_getLsbD]; simp

@[simp] theorem commandWord_getElem_bank : (commandWord b addr data)[16] = b :=
  commandWord_bank b addr data

@[simp] theorem wordData_commandWord : wordData (commandWord b addr data) = data := by
  apply BitVec.eq_of_getLsbD_eq
  intro i hi
  simp only [wordData, BitVec.getLsbD_extractLsb', commandWord_getLsbD]
  simp [hi]

@[simp] theorem wordAddr_commandWord : wordAddr (commandWord b addr data) = addr := by
  apply BitVec.eq_of_getLsbD_eq
  intro i hi
  simp only [wordAddr, BitVec.getLsbD_extractLsb', commandWord_getLsbD]
  have : 8 + i < 16 := by omega
  simp [hi, this]

/-- A command word is the concatenation of its bank bit, address and data (R81). -/
theorem commandWord_fields (w : CmdWord) :
    commandWord (w.getLsbD 16) (wordAddr w) (wordData w) = w := by
  apply BitVec.eq_of_getLsbD_eq
  intro i hi
  simp only [commandWord_getLsbD, wordAddr, wordData, BitVec.getLsbD_extractLsb']
  by_cases h8 : i < 8
  · simp [h8]
  · by_cases h16 : i < 16
    · have h : i - 8 < 8 := by omega
      have e : 8 + (i - 8) = i := by omega
      simp [h8, h16, h, e]
    · obtain rfl : i = 16 := by omega
      simp

end Word

section Address
variable (g : BitVec 3) (low : BitVec 5) (x : Bool) (c : BitVec 4)

/-- Bit i of an address made of group bits and low bits (R82). -/
theorem groupAddr_getLsbD (i : Nat) :
    (groupAddr g low).getLsbD i = if i < 5 then low.getLsbD i else g.getLsbD (i - 5) := by
  simp only [groupAddr, BitVec.getLsbD_cast, BitVec.getLsbD_append]

/-- Bit i of a channel register's low address bits (R85). -/
theorem channelLow_getLsbD (i : Nat) :
    (channelLow x c).getLsbD i = if i < 4 then c.getLsbD i else (decide (i = 4) && x) := by
  simp only [channelLow, BitVec.getLsbD_cast, BitVec.getLsbD_append, BitVec.getLsbD_ofBool]
  by_cases h : i < 4
  · simp [h]
  · have e : i - 4 = 0 ↔ i = 4 := by omega
    simp [h, e]

@[simp] theorem groupAddr_group : BitVec.extractLsb' 5 3 (groupAddr g low) = g := by
  apply BitVec.eq_of_getLsbD_eq
  intro i hi
  simp only [BitVec.getLsbD_extractLsb', groupAddr_getLsbD]
  simp [hi]

@[simp] theorem groupAddr_low : BitVec.extractLsb' 0 5 (groupAddr g low) = low := by
  apply BitVec.eq_of_getLsbD_eq
  intro i hi
  simp only [BitVec.getLsbD_extractLsb', groupAddr_getLsbD]
  simp [hi]

@[simp] theorem groupAddr_x : (groupAddr g (channelLow x c)).getLsbD 4 = x := by
  simp only [groupAddr_getLsbD, channelLow_getLsbD]; simp

@[simp] theorem groupAddr_getElem_x : (groupAddr g (channelLow x c))[4] = x := groupAddr_x g x c

@[simp] theorem groupAddr_channel :
    BitVec.extractLsb' 0 4 (groupAddr g (channelLow x c)) = c := by
  apply BitVec.eq_of_getLsbD_eq
  intro i hi
  have : i < 5 := by omega
  simp only [BitVec.getLsbD_extractLsb', groupAddr_getLsbD, channelLow_getLsbD]
  simp [hi, this]

/-- An address is its group bits and its low bits (R82). -/
theorem groupAddr_fields (a : Byte) : groupAddr (a.extractLsb' 5 3) (a.extractLsb' 0 5) = a := by
  apply BitVec.eq_of_getLsbD_eq
  intro i hi
  simp only [groupAddr_getLsbD, BitVec.getLsbD_extractLsb']
  by_cases h5 : i < 5
  · simp [h5]
  · have h : i - 5 < 3 := by omega
    have e : 5 + (i - 5) = i := by omega
    simp [h5, h, e]

/-- The low bits of a channel register's address are its bit 4 and its channel field (R85). -/
theorem channelLow_fields (a : Byte) :
    channelLow (a.getLsbD 4) (a.extractLsb' 0 4) = a.extractLsb' 0 5 := by
  apply BitVec.eq_of_getLsbD_eq
  intro i hi
  simp only [channelLow_getLsbD, BitVec.getLsbD_extractLsb']
  by_cases h4 : i < 4
  · have : i < 5 := hi
    simp [h4, this]
  · obtain rfl : i = 4 := by omega
    simp

end Address

/-- A WRITE inside the operand domain of R271 becomes its command word (R81). -/
theorem transcribe_write_ok {bank addr data : Int} (hb : 0 ≤ bank) (ha : 0 ≤ addr ∧ addr ≤ 255)
    (hd : 0 ≤ data ∧ data ≤ 255) :
    transcribe (.write bank addr data) =
      .ok (.write (commandWord (bank != 0) (BitVec.ofInt 8 addr) (BitVec.ofInt 8 data))) := by
  have h1 : ¬ bank < 0 := by omega
  have h2 : ¬ (addr < 0 ∨ 255 < addr) := by omega
  have h3 : ¬ (data < 0 ∨ 255 < data) := by omega
  simp [transcribe, h1, h2, h3]

end Sys2Proof
end

