-- ==== Sys2Proof/Laws/State.lean ====
section
/-! SUPPORT. Field-of-update lemmas for the state: what each named update leaves in each field, and how operators
and channels read back. No later proof unfolds a record update or a vector. -/

namespace Sys2Proof.Machine

section ModGlob
variable (s : State) (f : Glob → Glob)

@[simp] theorem modGlob_g : (s.modGlob f).g = f s.g := rfl
@[simp] theorem modGlob_cfg : (s.modGlob f).cfg = s.cfg := rfl
@[simp] theorem modGlob_ch : (s.modGlob f).ch = s.ch := rfl
@[simp] theorem modGlob_op : (s.modGlob f).op = s.op := rfl
@[simp] theorem modGlob_pending : (s.modGlob f).pending = s.pending := rfl
@[simp] theorem modGlob_observed : (s.modGlob f).observed = s.observed := rfl
@[simp] theorem modGlob_oper (i : Slot) : (s.modGlob f).oper i = s.oper i := rfl
@[simp] theorem modGlob_chan (c : Channel) : (s.modGlob f).chan c = s.chan c := rfl
@[simp] theorem modGlob_chanAt (i : Slot) : (s.modGlob f).chanAt i = s.chanAt i := rfl

end ModGlob

section ModOper
variable (s : State) (i : Slot) (f : Oper → Oper)

@[simp] theorem modOper_g : (s.modOper i f).g = s.g := rfl
@[simp] theorem modOper_cfg : (s.modOper i f).cfg = s.cfg := rfl
@[simp] theorem modOper_ch : (s.modOper i f).ch = s.ch := rfl
@[simp] theorem modOper_pending : (s.modOper i f).pending = s.pending := rfl
@[simp] theorem modOper_observed : (s.modOper i f).observed = s.observed := rfl
@[simp] theorem modOper_chan (c : Channel) : (s.modOper i f).chan c = s.chan c := rfl
@[simp] theorem modOper_chanAt (j : Slot) : (s.modOper i f).chanAt j = s.chanAt j := rfl

/-- An operator after an update of operator `i`. -/
theorem modOper_oper (j : Slot) :
    (s.modOper i f).oper j = if j = i then f (s.oper i) else s.oper j := by
  by_cases h : j = i
  · subst h; simp [State.modOper, State.oper]
  · have : i.val ≠ j.val := fun e => h (Fin.ext e.symm)
    simp [State.modOper, State.oper, h, this]

@[simp] theorem modOper_oper_self : (s.modOper i f).oper i = f (s.oper i) := by
  simp [modOper_oper]

theorem modOper_oper_ne {j : Slot} (h : j ≠ i) : (s.modOper i f).oper j = s.oper j := by
  simp [modOper_oper, h]

end ModOper

section ModChan
variable (s : State) (c : Channel) (f : Chan → Chan)

@[simp] theorem modChan_g : (s.modChan c f).g = s.g := rfl
@[simp] theorem modChan_cfg : (s.modChan c f).cfg = s.cfg := rfl
@[simp] theorem modChan_op : (s.modChan c f).op = s.op := rfl
@[simp] theorem modChan_pending : (s.modChan c f).pending = s.pending := rfl
@[simp] theorem modChan_observed : (s.modChan c f).observed = s.observed := rfl
@[simp] theorem modChan_oper (i : Slot) : (s.modChan c f).oper i = s.oper i := rfl

/-- A channel after an update of channel `c`. -/
theorem modChan_chan (d : Channel) :
    (s.modChan c f).chan d = if d = c then f (s.chan c) else s.chan d := by
  by_cases h : d = c
  · subst h; simp [State.modChan, State.chan]
  · have : c.val ≠ d.val := fun e => h (Fin.ext e.symm)
    simp [State.modChan, State.chan, h, this]

@[simp] theorem modChan_chan_self : (s.modChan c f).chan c = f (s.chan c) := by
  simp [modChan_chan]

theorem modChan_chan_ne {d : Channel} (h : d ≠ c) : (s.modChan c f).chan d = s.chan d := by
  simp [modChan_chan, h]

end ModChan

section MapOper
variable (s : State) (f : Slot → Oper → Oper)

@[simp] theorem mapOper_g : (s.mapOper f).g = s.g := rfl
@[simp] theorem mapOper_cfg : (s.mapOper f).cfg = s.cfg := rfl
@[simp] theorem mapOper_ch : (s.mapOper f).ch = s.ch := rfl
@[simp] theorem mapOper_pending : (s.mapOper f).pending = s.pending := rfl
@[simp] theorem mapOper_observed : (s.mapOper f).observed = s.observed := rfl
@[simp] theorem mapOper_chan (c : Channel) : (s.mapOper f).chan c = s.chan c := rfl
@[simp] theorem mapOper_chanAt (i : Slot) : (s.mapOper f).chanAt i = s.chanAt i := rfl

@[simp] theorem mapOper_oper (i : Slot) : (s.mapOper f).oper i = f i (s.oper i) := by
  simp [State.mapOper, State.oper]

end MapOper

section WithUnitReset
variable (s : State)

@[simp] theorem withUnitReset_g : s.withUnitReset.g = Glob.reset s.cfg := rfl
@[simp] theorem withUnitReset_cfg : s.withUnitReset.cfg = s.cfg := rfl
@[simp] theorem withUnitReset_pending : s.withUnitReset.pending = s.pending := rfl
@[simp] theorem withUnitReset_observed : s.withUnitReset.observed = s.observed := rfl

@[simp] theorem withUnitReset_oper (i : Slot) : s.withUnitReset.oper i = Oper.reset := by
  simp [State.withUnitReset, State.oper]

@[simp] theorem withUnitReset_chan (c : Channel) : s.withUnitReset.chan c = Chan.reset := by
  simp [State.withUnitReset, State.chan]

end WithUnitReset

@[simp] theorem reset_oper (i : Slot) : State.reset.oper i = Oper.reset := by
  simp [State.reset, State.oper]

@[simp] theorem reset_chan (c : Channel) : State.reset.chan c = Chan.reset := by
  simp [State.reset, State.chan]

/-- Two states are equal where their records read equal everywhere. -/
theorem State.ext_reads {s t : State} (hc : s.cfg = t.cfg) (hg : s.g = t.g)
    (hch : ∀ c, s.chan c = t.chan c) (hop : ∀ i, s.oper i = t.oper i)
    (hp : s.pending = t.pending) (ho : s.observed = t.observed) : s = t := by
  obtain ⟨c1, g1, ch1, op1, p1, o1⟩ := s
  obtain ⟨c2, g2, ch2, op2, p2, o2⟩ := t
  have e1 : ch1 = ch2 := Vector.ext fun k hk => hch ⟨k, hk⟩
  have e2 : op1 = op2 := Vector.ext fun k hk => hop ⟨k, hk⟩
  subst e1 e2
  simp_all

end Sys2Proof.Machine
end

