-- ==== Sys2Proof/Laws/Ops.lean ====
section
/-! SUPPORT. What the key operations and the frequency update can do (R122, R125, R126, R146): everything they
leave alone, and the cases of what they change. -/

namespace Sys2Proof.Machine

section KeyTo
variable (on : Bool) (b : BitVec 2) (o : Oper)

/-- A key action changes only the latch, the phase of the envelope and the phase accumulator. -/
theorem keyTo_frame :
    keyTo on b o =
      { o with
        key := (keyTo on b o).key
        eg := (keyTo on b o).eg
        cnt := (keyTo on b o).cnt } := by
  unfold keyTo keyOn keyOff
  dsimp only
  repeat' split
  all_goals rfl

@[simp] theorem keyTo_vol : (keyTo on b o).vol = o.vol := by rw [keyTo_frame]
@[simp] theorem keyTo_o0 : (keyTo on b o).o0 = o.o0 := by rw [keyTo_frame]
@[simp] theorem keyTo_o1 : (keyTo on b o).o1 = o.o1 := by rw [keyTo_frame]

/-- The latch after a key action: the bit set, or the bit cleared. -/
theorem keyTo_key : (keyTo on b o).key = if on then o.key ||| b else o.key &&& ~~~b := by
  unfold keyTo keyOn keyOff
  dsimp only
  repeat' split
  all_goals simp_all

/-- A key action from a clear latch: a key-on restarts the operator, a key-off does nothing. -/
theorem keyTo_of_clear (h : o.key = 0#2) :
    keyTo on b o = if on then { o with cnt := 0#32, eg := .att, key := b } else o := by
  unfold keyTo keyOn keyOff
  cases on <;> simp [h]

/-- A key action on a held latch leaves the phase accumulator, and moves the envelope only to REL. -/
theorem keyTo_of_held (h : o.key ≠ 0#2) :
    (keyTo on b o).cnt = o.cnt ∧
      ((keyTo on b o).eg = o.eg ∨
        (on = false ∧ o.key &&& ~~~b = 0#2 ∧ (keyTo on b o).eg = .rel ∧
          (o.eg = .att ∨ o.eg = .dec ∨ o.eg = .sus))) := by
  unfold keyTo keyOn keyOff
  cases on
  · cases he : o.eg <;> by_cases hk : o.key &&& ~~~b = 0#2 <;> simp [h, hk, egRank]
  · simp [h]

end KeyTo

section FreqUpdate
variable (mode : Byte) (nbf : BitVec 13) (c : Chan)

@[simp] theorem freqUpdate_blockFnum : (freqUpdate mode nbf c).blockFnum = nbf := by
  unfold freqUpdate; split <;> simp_all

@[simp] theorem freqUpdate_fb : (freqUpdate mode nbf c).fb = c.fb := by
  unfold freqUpdate; split <;> rfl

@[simp] theorem freqUpdate_con : (freqUpdate mode nbf c).con = c.con := by
  unfold freqUpdate; split <;> rfl

end FreqUpdate

section RhythmKeys
variable (v : Byte) (s : State)

/-- The update of one entry of the percussion map. -/
theorem rhythmKeys_unfold :
    rhythmKeys v s =
      ((((((s.modOper 12 (keyTo (fieldRhythm v && v.getLsbD 4) rhythmKey)).modOper 13
        (keyTo (fieldRhythm v && v.getLsbD 4) rhythmKey)).modOper 14
        (keyTo (fieldRhythm v && v.getLsbD 0) rhythmKey)).modOper 15
        (keyTo (fieldRhythm v && v.getLsbD 3) rhythmKey)).modOper 16
        (keyTo (fieldRhythm v && v.getLsbD 2) rhythmKey)).modOper 17
        (keyTo (fieldRhythm v && v.getLsbD 1) rhythmKey)) := rfl

@[simp] theorem rhythmKeys_g : (rhythmKeys v s).g = s.g := rfl
@[simp] theorem rhythmKeys_cfg : (rhythmKeys v s).cfg = s.cfg := rfl
@[simp] theorem rhythmKeys_ch : (rhythmKeys v s).ch = s.ch := rfl
@[simp] theorem rhythmKeys_pending : (rhythmKeys v s).pending = s.pending := rfl
@[simp] theorem rhythmKeys_observed : (rhythmKeys v s).observed = s.observed := rfl
@[simp] theorem rhythmKeys_chan (c : Channel) : (rhythmKeys v s).chan c = s.chan c := rfl

end RhythmKeys

end Sys2Proof.Machine
end

