-- ==== Sys2Proof/Laws/Operands.lean ====
section
/-! SUPPORT. Slots and channels: the two slots of a channel, and which slots belong to which channel (R12). -/

namespace Sys2Proof.Machine

@[simp] theorem chanOf_op1Of (c : Channel) : chanOf (op1Of c) = c := by
  ext; simp [chanOf, op1Of]

@[simp] theorem chanOf_op2Of (c : Channel) : chanOf (op2Of c) = c := by
  ext; simp [chanOf, op2Of]; omega

@[simp] theorem op1Of_ne_op2Of (c d : Channel) : op1Of c ≠ op2Of d := by
  intro h; have := congrArg Fin.val h; simp [op1Of, op2Of] at this; omega

@[simp] theorem op2Of_ne_op1Of (c d : Channel) : op2Of c ≠ op1Of d := (op1Of_ne_op2Of d c).symm

@[simp] theorem op1Of_inj (c d : Channel) : op1Of c = op1Of d ↔ c = d := by
  simp [op1Of, Fin.ext_iff]

@[simp] theorem op2Of_inj (c d : Channel) : op2Of c = op2Of d ↔ c = d := by
  simp [op2Of, Fin.ext_iff]

/-- A slot is operator 1 or operator 2 of its channel (R12). -/
theorem slot_cases (i : Slot) : i = op1Of (chanOf i) ∨ i = op2Of (chanOf i) := by
  rcases Nat.mod_two_eq_zero_or_one i.val with h | h
  · left; ext; simp [op1Of, chanOf]; omega
  · right; ext; simp [op2Of, chanOf]; omega

/-- The slots of channel c are its two operators. -/
theorem chanOf_eq_iff (i : Slot) (c : Channel) : chanOf i = c ↔ i = op1Of c ∨ i = op2Of c := by
  constructor
  · rintro rfl; exact slot_cases i
  · rintro (rfl | rfl) <;> simp

end Sys2Proof.Machine
end

