-- ==== Sys2Proof/Laws/Tables.lean ====
section
/-! SUPPORT. The bounds of the tables, that every index the rules use lies inside its table, and that TLBASE is the
output of its generating formula (R266). -/

namespace Sys2Proof.Machine

theorem tlBase_range (x : Nat) (h : x < 256) : 2048 ≤ tlBase x ∧ tlBase x ≤ 4084 := by
  have key : ∀ y : Fin 256, 2048 ≤ tlBase y ∧ tlBase y ≤ 4084 := by decide +kernel
  exact key ⟨x, h⟩

theorem sinMag_le (q : Nat) (h : q < 256) : sinMag q ≤ 2137 := by
  have key : ∀ y : Fin 256, sinMag y ≤ 2137 := by decide +kernel
  exact key ⟨q, h⟩

/-- The largest m with m^256 * 2^(x+1) <= 65536^256 in an interval, by bisection. -/
def floorRoot (x : Nat) : Nat → Nat → Nat → Nat
  | 0, lo, _ => lo
  | fuel + 1, lo, hi =>
    let mid := (lo + hi) / 2
    if mid ^ 256 * 2 ^ (x + 1) ≤ 65536 ^ 256 then floorRoot x fuel mid hi else floorRoot x fuel lo mid

/-- TLBASE[x] is the value of the formula of R266: with m = floor(65536 / 2^((x+1)/256)), written without roots
as m^256 * 2^(x+1) <= 65536^256 < (m+1)^256 * 2^(x+1), and n = m >> 4, it is 2 * ((n + 1) >> 1). -/
theorem tlBase_formula (x : Nat) (h : x < 256) :
    ∃ m, m ^ 256 * 2 ^ (x + 1) ≤ 65536 ^ 256 ∧ 65536 ^ 256 < (m + 1) ^ 256 * 2 ^ (x + 1) ∧
      tlBase x = 2 * ((m / 16 + 1) / 2) := by
  have key : ∀ y : Fin 256,
      (floorRoot y 16 0 65536) ^ 256 * 2 ^ (y.val + 1) ≤ 65536 ^ 256 ∧
      65536 ^ 256 < (floorRoot y 16 0 65536 + 1) ^ 256 * 2 ^ (y.val + 1) ∧
      tlBase y = 2 * ((floorRoot y 16 0 65536 / 16 + 1) / 2) := by decide +kernel
  exact ⟨_, key ⟨x, h⟩⟩

theorem amTab_le (k : Nat) (h : k < 210) : amTab k ≤ 26 := by
  have key : ∀ y : Fin 210, amTab y ≤ 26 := by decide +kernel
  exact key ⟨k, h⟩

theorem kslTab_le (i : Nat) (h : i < 128) : kslTab i ≤ 224 := by
  have key : ∀ y : Fin 128, kslTab y ≤ 224 := by decide +kernel
  exact key ⟨i, h⟩

theorem mulTab_range (m : BitVec 4) : 1 ≤ mulTab m ∧ mulTab m ≤ 30 := by
  have key : ∀ y : BitVec 4, 1 ≤ mulTab y ∧ mulTab y ≤ 30 := by decide +kernel
  exact key m

theorem slTab_le (sl : BitVec 4) : slTab sl ≤ 496 := by
  have key : ∀ y : BitVec 4, slTab y ≤ 496 := by decide +kernel
  exact key sl

theorem s0_le (i : Nat) : s0 i ≤ 4275 := by
  unfold s0
  have hq : (if i % 512 < 256 then i % 512 else 511 - i % 512) < 256 := by split <;> omega
  have h := sinMag_le _ hq
  have hs : (if 512 ≤ i then 1 else 0) ≤ 1 := by split <;> omega
  dsimp only
  omega

theorem sinTab_le (w : BitVec 2) (i : Nat) : sinTab w i ≤ tlTabLen := by
  have h1 := s0_le i
  have h2 := s0_le (i % 512)
  have h3 := s0_le (i % 256)
  unfold sinTab tlTabLen
  repeat' split
  all_goals omega

/-- TLTAB stays within +-4084 (R252, R219). -/
theorem tlTab_range (p : Nat) : -4084 ≤ tlTab p ∧ tlTab p ≤ 4084 := by
  have hb := tlBase_range (p % 512 / 2) (by omega)
  have hs : tlBase (p % 512 / 2) >>> (p / 512) ≤ tlBase (p % 512 / 2) := by
    rw [Nat.shiftRight_eq_div_pow]; exact Nat.div_le_self _ _
  unfold tlTab
  generalize tlBase (p % 512 / 2) >>> (p / 512) = v at hs
  dsimp only
  split <;> omega

/-- EG_INC is at most 8, and at most 4 in every row but 13 (R260). -/
theorem egInc_le (row k : Nat) : egInc row k ≤ 8 ∧ (row ≠ 13 → egInc row k ≤ 4) := by
  by_cases h : row < 15 ∧ k < 8
  · have key : ∀ r : Fin 15, ∀ j : Fin 8, egInc r j ≤ 8 ∧ (r.val ≠ 13 → egInc r j ≤ 4) := by
      decide +kernel
    exact key ⟨row, h.1⟩ ⟨k, h.2⟩
  · have hz : egInc row k = 0 := by
      unfold egInc
      rcases Nat.lt_or_ge row 15 with hr | hr
      · have hk : 8 ≤ k := by omega
        have len : ∀ r : Fin 15, (egIncRows.getD r []).length = 8 := by decide +kernel
        rw [List.getD_eq_default]
        rw [len ⟨row, hr⟩]; exact hk
      · have len : egIncRows.length = 15 := by decide +kernel
        rw [List.getD_eq_default (l := egIncRows) (hn := by omega)]; simp
    simp [hz]

/-- RATE_ROW names a row of EG_INC, never the instant-attack row (R261, R182). -/
theorem rateRow_range (idx : Nat) : rateRow idx ≤ 14 ∧ rateRow idx ≠ 13 := by
  unfold rateRow
  repeat' split
  all_goals omega

/-- The shift is at most 12 (R261, R278). -/
theorem rateShift_le (idx : Nat) : rateShift idx ≤ 12 := by
  unfold rateShift; split <;> omega

/-- The vibrato offset is within +-7, and 0 for fnum below 128 (R201, R263). -/
theorem pmTab_range (f : Nat) (deep : Bool) (k : Nat) :
    -7 ≤ pmTab f deep k ∧ pmTab f deep k ≤ 7 ∧ (f = 0 → pmTab f deep k = 0) := by
  by_cases h : f < 8 ∧ k < 8
  · have key : ∀ a : Fin 8, ∀ d : Bool, ∀ j : Fin 8,
        -7 ≤ pmTab a d j ∧ pmTab a d j ≤ 7 ∧ (a.val = 0 → pmTab a d j = 0) := by decide +kernel
    exact key ⟨f, h.1⟩ deep ⟨k, h.2⟩
  · have hz : pmTab f deep k = 0 := by
      unfold pmTab
      rcases Nat.lt_or_ge f 8 with hf | hf
      · have hk : 8 ≤ k := by omega
        have len : ∀ d : Bool, ∀ r : Fin 8,
            ((if d then pmDeepRows else pmShallowRows).getD r []).length = 8 := by decide +kernel
        rw [List.getD_eq_default]
        rw [len deep ⟨f, hf⟩]; exact hk
      · have len : ∀ d : Bool, (if d then pmDeepRows else pmShallowRows).length = 8 := by
          decide +kernel
        rw [List.getD_eq_default (l := if deep then pmDeepRows else pmShallowRows)
          (hn := by rw [len]; omega)]
        simp
    simp [hz]

/-- KSL_BASE is at most 224 (R34). -/
theorem kslBase_le (c : Chan) : kslBase c ≤ 224 :=
  kslTab_le _ (by rw [Nat.shiftRight_eq_div_pow]; have := c.blockFnum.isLt; omega)

/-- TLL lies in 0..476, whatever KSL_SHIFT is (R34). -/
theorem tll_le (cfg : Config) (c : Chan) (o : Oper) : tll cfg c o ≤ 476 := by
  have h1 := kslBase_le c
  have h2 : kslBase c >>> kslShiftOf cfg o.ksl ≤ kslBase c := by
    rw [Nat.shiftRight_eq_div_pow]; exact Nat.div_le_self _ _
  have h3 := o.tl.isLt
  unfold tll; omega

/-- KSRV lies in 0..15 (R33). -/
theorem ksrv_lt (c : Chan) (o : Oper) : ksrv c o < 16 := by
  have h := c.kcode.isLt
  unfold ksrv
  rw [Nat.shiftRight_eq_div_pow]
  exact lt_of_le_of_lt (Nat.div_le_self _ _) h

/-- Every rate index lies in the tables, 0..91 (R261). -/
theorem rateIndex_le (c : Chan) (o : Oper) (r : BitVec 4) : rateIndex r (ksrv c o) ≤ 91 := by
  have h1 := ksrv_lt c o
  have h2 := r.isLt
  unfold rateIndex; split <;> omega

/-- LFO_AM lies in 0..26 (R161). -/
theorem lfoAm_le (g : Glob) : lfoAm g ≤ 26 := by
  have h := amTab_le (g.amCnt.val / 64) (by have := g.amCnt.isLt; omega)
  unfold lfoAm
  dsimp only
  split <;> omega

end Sys2Proof.Machine
end

