-- ==== Sys2Proof/Laws/Tick.lean ====
section
/-! SUPPORT. What each piece of a TICK can do: the envelope step and the phase step of one operator, the modulator
step of one channel, and the range of an operator's output. -/

namespace Sys2Proof.Machine

/-! ## Step 2 on one operator -/

/-- An increment is at most 8, and at most 4 outside ATT (R182, R260). -/
theorem stepDue_le {n : BitVec 32} {c : Chan} {o : Oper} {p : EgPhase} {inc : Nat}
    (h : stepDue n c o p = some inc) : inc ≤ 8 ∧ (p ≠ .att → inc ≤ 4) := by
  unfold stepDue at h
  split at h
  · cases h
  · next pr hp =>
    split at h
    · cases h
      refine ⟨(egInc_le _ _).1, fun hatt => (egInc_le _ _).2 ?_⟩
      unfold egRate at hp
      split at hp
      · cases hp
      · dsimp only at hp
        split at hp
        · next hc => exact absurd hc.1 hatt
        · cases hp; exact (rateRow_range _).2
    · cases h

section EgStep
variable (n : BitVec 32) (c : Chan) (o : Oper)

/-- An envelope step changes only the attenuation and the phase (R181 to R187). -/
theorem egStep_frame :
    egStep n c o = { o with vol := (egStep n c o).vol, eg := (egStep n c o).eg } := by
  unfold egStep egAttack egDecay egSustain egRelease
  dsimp only
  repeat' split
  all_goals rfl

@[simp] theorem egStep_key : (egStep n c o).key = o.key := by rw [egStep_frame]
@[simp] theorem egStep_cnt : (egStep n c o).cnt = o.cnt := by rw [egStep_frame]
@[simp] theorem egStep_o0 : (egStep n c o).o0 = o.o0 := by rw [egStep_frame]
@[simp] theorem egStep_o1 : (egStep n c o).o1 = o.o1 := by rw [egStep_frame]
@[simp] theorem egStep_mult : (egStep n c o).mult = o.mult := by rw [egStep_frame]
@[simp] theorem egStep_vib : (egStep n c o).vib = o.vib := by rw [egStep_frame]
@[simp] theorem egStep_am : (egStep n c o).am = o.am := by rw [egStep_frame]
@[simp] theorem egStep_tl : (egStep n c o).tl = o.tl := by rw [egStep_frame]
@[simp] theorem egStep_ksl : (egStep n c o).ksl = o.ksl := by rw [egStep_frame]
@[simp] theorem egStep_ws : (egStep n c o).ws = o.ws := by rw [egStep_frame]

/-- Where the envelope phase of an operator can go in one step (R183 to R187). -/
theorem egStep_phase :
    (egStep n c o).eg = o.eg ∨
      (o.eg = .att ∧ (egStep n c o).eg = .dec ∧ (egStep n c o).vol = 0#9) ∨
      (o.eg = .dec ∧ (egStep n c o).eg = .sus) ∨
      (o.eg = .rel ∧ (egStep n c o).eg = .off ∧ (egStep n c o).vol = 511#9) := by
  cases he : o.eg <;> simp only [egStep, he]
  · simp
  · unfold egRelease; dsimp only; repeat' split
    all_goals simp_all [maxAtt]
  · unfold egSustain; repeat' split
    all_goals simp_all
  · unfold egDecay; dsimp only; repeat' split
    all_goals simp_all
  · unfold egAttack; dsimp only; repeat' split
    all_goals simp_all

@[simp] theorem egStep_of_off (h : o.eg = .off) : egStep n c o = o := by
  unfold egStep; rw [h]

end EgStep

/-! ## Step 3 on one operator -/

section PhaseStep
variable (g : Glob) (c : Chan) (o : Oper)

@[simp] theorem phaseStep_key : (phaseStep g c o).key = o.key := rfl
@[simp] theorem phaseStep_eg : (phaseStep g c o).eg = o.eg := rfl
@[simp] theorem phaseStep_vol : (phaseStep g c o).vol = o.vol := rfl
@[simp] theorem phaseStep_o0 : (phaseStep g c o).o0 = o.o0 := rfl
@[simp] theorem phaseStep_o1 : (phaseStep g c o).o1 = o.o1 := rfl

/-- The value step 3 gives FC is a natural number: a negative offset cannot borrow (R201). -/
theorem vibrato_nonneg : 0 ≤ (c.blockFnum.toNat : Int) + pmOff g c.blockFnum := by
  have h := pmTab_range (c.blockFnum.toNat / 128 % 8) g.pmDepth (lfoStep g)
  unfold pmOff
  by_cases hz : c.blockFnum.toNat / 128 % 8 = 0
  · rw [h.2.2 hz]; omega
  · omega

end PhaseStep

/-! ## Steps 1 to 3 together -/

section Advance
variable (s : State)

@[simp] theorem tickAdvance_cfg : (tickAdvance s).cfg = s.cfg := rfl
@[simp] theorem tickAdvance_chan (c : Channel) : (tickAdvance s).chan c = s.chan c := rfl
@[simp] theorem tickAdvance_chanAt (i : Slot) : (tickAdvance s).chanAt i = s.chanAt i := rfl
@[simp] theorem tickAdvance_pending : (tickAdvance s).pending = s.pending := rfl
@[simp] theorem tickAdvance_observed : (tickAdvance s).observed = s.observed := rfl

/-- The global record after steps 1 to 3. -/
theorem tickAdvance_g :
    (tickAdvance s).g =
      { s.g with
        amCnt := s.g.amCnt + 1
        pmCnt := s.g.pmCnt + 1
        noise := noiseShift s.cfg.noiseMask s.g.noise
        egCnt := s.g.egCnt + 1 } := rfl

/-- An operator after steps 1 to 3: its envelope step, then its phase step. -/
theorem tickAdvance_oper (i : Slot) :
    (tickAdvance s).oper i =
      phaseStep (tickAdvance s).g (s.chanAt i) (egStep (s.g.egCnt + 1) (s.chanAt i) (s.oper i)) := by
  simp only [tickAdvance, step3Phase, step2Envelope, step1LfoNoise, mapOper_oper, modGlob_oper,
    mapOper_chanAt, modGlob_chanAt, mapOper_g, modGlob_g]
  rfl

end Advance

/-! ## Step 4: one modulator, one output -/

/-- OPCALC stays within +-4084 (R212, R219). -/
theorem opCalc_range (phase : BitVec 32) (env : Nat) (pm : Int) (w : BitVec 2) :
    -4084 ≤ opCalc phase env pm w ∧ opCalc phase env pm w ≤ 4084 := by
  unfold opCalc
  dsimp only
  split
  · omega
  · exact tlTab_range _

theorem operOutput_range (s : State) (i : Slot) (phase : BitVec 32) (pm : Int) :
    -4084 ≤ operOutput s i phase pm ∧ operOutput s i phase pm ≤ 4084 := by
  unfold operOutput
  dsimp only
  split
  · exact opCalc_range _ _ _ _
  · omega

theorem modOutput_range (s : State) (c : Channel) :
    -4084 ≤ modOutput s c ∧ modOutput s c ≤ 4084 := by
  unfold modOutput
  dsimp only
  split
  · exact opCalc_range _ _ _ _
  · omega

section ModStep
variable (s : State) (c : Channel)

@[simp] theorem modStep_prev : (modStep s c).2 = (s.oper (op1Of c)).o1 := rfl
@[simp] theorem modStep_g : (modStep s c).1.g = s.g := rfl
@[simp] theorem modStep_cfg : (modStep s c).1.cfg = s.cfg := rfl
@[simp] theorem modStep_ch : (modStep s c).1.ch = s.ch := rfl
@[simp] theorem modStep_chan (d : Channel) : (modStep s c).1.chan d = s.chan d := rfl
@[simp] theorem modStep_pending : (modStep s c).1.pending = s.pending := rfl
@[simp] theorem modStep_observed : (modStep s c).1.observed = s.observed := rfl

/-- An operator after the modulator step of channel c: operator 1 of c moves its history on (R214). -/
theorem modStep_oper (i : Slot) :
    (modStep s c).1.oper i =
      if i = op1Of c then { s.oper i with o0 := (s.oper i).o1, o1 := modOutput s c }
      else s.oper i := by
  unfold modStep
  rw [modOper_oper]
  split
  · next h => subst h; rfl
  · rfl

@[simp] theorem channelOut_state : (channelOut s c).1 = (modStep s c).1 := rfl

@[simp] theorem bassDrum_state : (bassDrum s).1 = (modStep s 6).1 := rfl

@[simp] theorem rhythmOut_state : (rhythmOut s).1 = (modStep s 6).1 := rfl

end ModStep

/-- Two states are the same but for the feedback histories of their operators. -/
def SameButHistory (s t : State) : Prop :=
  t.g = s.g ∧ t.cfg = s.cfg ∧ t.ch = s.ch ∧ t.pending = s.pending ∧ t.observed = s.observed ∧
    ∀ i, t.oper i = { s.oper i with o0 := (t.oper i).o0, o1 := (t.oper i).o1 }

theorem SameButHistory.refl (s : State) : SameButHistory s s :=
  ⟨rfl, rfl, rfl, rfl, rfl, fun _ => rfl⟩

theorem SameButHistory.trans {s t u : State} (h : SameButHistory s t) (h' : SameButHistory t u) :
    SameButHistory s u := by
  obtain ⟨a1, a2, a3, a4, a5, a6⟩ := h
  obtain ⟨b1, b2, b3, b4, b5, b6⟩ := h'
  refine ⟨b1.trans a1, b2.trans a2, b3.trans a3, b4.trans a4, b5.trans a5, fun i => ?_⟩
  rw [b6 i, a6 i]

theorem modStep_sameButHistory (s : State) (c : Channel) : SameButHistory s (modStep s c).1 := by
  refine ⟨rfl, rfl, rfl, rfl, rfl, fun i => ?_⟩
  rw [modStep_oper]
  split <;> rfl

theorem mixChannel_sameButHistory (acc : State × Int) (c : Channel) :
    SameButHistory acc.1 (mixChannel acc c).1 := modStep_sameButHistory acc.1 c

theorem foldl_mixChannel_sameButHistory (cs : List Channel) (acc : State × Int) :
    SameButHistory acc.1 (cs.foldl mixChannel acc).1 := by
  induction cs generalizing acc with
  | nil => exact .refl _
  | cons c cs ih => exact (mixChannel_sameButHistory acc c).trans (ih _)

/-- Step 4 changes nothing but feedback histories (R221, without saying which). -/
theorem mixAcc_sameButHistory (s : State) : SameButHistory s (mixAcc s).1 := by
  have h := foldl_mixChannel_sameButHistory (melodicChannels s.g.rhythm) (s, 0)
  unfold mixAcc
  dsimp only
  split
  · exact h.trans (modStep_sameButHistory _ 6)
  · exact h

theorem step4Output_sameButHistory (s : State) : SameButHistory s (step4Output s).1 :=
  mixAcc_sameButHistory s

/-- TICK answers a next state: steps 1 to 3, then step 4, then the result appended (R160). -/
theorem exec_tick (s : State) :
    execTick s =
      .next { (step4Output (tickAdvance s)).1 with
        observed := (step4Output (tickAdvance s)).1.observed ++
          [⟨(step4Output (tickAdvance s)).2, (step4Output (tickAdvance s)).2⟩] } := rfl

end Sys2Proof.Machine
end

