-- ==== Sys2Proof/Laws/Exec.lean ====
section
/-! SUPPORT. What one instruction can do to one operator, once for all instructions (the inversion lemma that the
whole-machine statements rest on). -/

namespace Sys2Proof

open Sys2Proof.Machine

/-- Two operator records agree on what the rules call dynamic: latch, envelope, phase and history. -/
def SameDynamic (o o' : Oper) : Prop :=
  o'.key = o.key ∧ o'.eg = o.eg ∧ o'.vol = o.vol ∧ o'.cnt = o.cnt ∧ o'.o0 = o.o0 ∧ o'.o1 = o.o1

theorem SameDynamic.refl (o : Oper) : SameDynamic o o := ⟨rfl, rfl, rfl, rfl, rfl, rfl⟩

/-- What an instruction does to the operator of slot k: a parameter write or nothing; a key action, which is a
key-on exactly where `keysOn` says so; the envelope and phase step of a TICK; or the reset record. -/
inductive OperChange (s t : State) (k : Slot) (i : Instr) : Prop where
  | params (hw : isWrite i = true) (hk : keysOn k i = false) (h : SameDynamic (s.oper k) (t.oper k))
  | keyed (hw : isWrite i = true) (b : BitVec 2) (hb : b = melodicKey ∨ b = rhythmKey)
      (h : t.oper k = keyTo (keysOn k i) b (s.oper k))
  | ticked (hi : i = .tick)
      (h : t.oper k =
        { phaseStep (tickAdvance s).g (s.chanAt k)
            (egStep (s.g.egCnt + 1) (s.chanAt k) (s.oper k)) with
          o0 := (t.oper k).o0
          o1 := (t.oper k).o1 })
  | wasReset (hi : i = .reset) (h : t.oper k = Oper.reset)

/-- A parameter write to slot `j` leaves the dynamic fields of every slot. -/
theorem modOper_sameDynamic (s : State) (j k : Slot) (f : Oper → Oper)
    (h : ∀ o, SameDynamic o (f o)) : SameDynamic (s.oper k) ((s.modOper j f).oper k) := by
  rw [modOper_oper]
  split
  · next e => subst e; exact h _
  · exact .refl _

theorem wrRhy_operChange (s : State) (k : Slot) (v : Byte) :
    OperChange s (rhythmKeys v (s.modGlob (rhythmFields v))) k (.wrRhy v) := by
  have key : ∀ k : Slot,
      ((rhythmKeys v (s.modGlob (rhythmFields v))).oper k = s.oper k ∧ keysOn k (.wrRhy v) = false) ∨
      (rhythmKeys v (s.modGlob (rhythmFields v))).oper k =
        keyTo (keysOn k (.wrRhy v)) rhythmKey (s.oper k) := by
    intro k
    rw [rhythmKeys_unfold]
    fin_cases k <;> simp [modOper_oper, keysOn, rhythmKeyMap]
  rcases key k with ⟨h, hk⟩ | h
  · exact .params rfl hk (by rw [h]; exact .refl _)
  · exact .keyed rfl _ (.inr rfl) h

theorem wrKbf_operChange (s : State) (k : Slot) (c : Channel) (v : Byte) (f : Chan → Chan) :
    OperChange s (((s.modOper (op1Of c) (keyTo (fieldKeyOn v) melodicKey)).modOper (op2Of c)
      (keyTo (fieldKeyOn v) melodicKey)).modChan c f) k (.wrKbf c v) := by
  by_cases hc : chanOf k = c
  · have hk : keysOn k (.wrKbf c v) = fieldKeyOn v := by simp [keysOn, hc]
    refine .keyed rfl melodicKey (.inl rfl) ?_
    rw [hk]
    rcases (chanOf_eq_iff k c).1 hc with rfl | rfl <;> simp [modOper_oper]
  · have hk : keysOn k (.wrKbf c v) = false := by simp [keysOn, hc]
    have h1 : k ≠ op1Of c := fun e => hc ((chanOf_eq_iff k c).2 (.inl e))
    have h2 : k ≠ op2Of c := fun e => hc ((chanOf_eq_iff k c).2 (.inr e))
    exact .params rfl hk (by simp [modOper_oper, h1, h2, SameDynamic])

theorem tick_operChange (s t : State) (k : Slot) (h : execTick s = .next t) :
    OperChange s t k .tick := by
  rw [exec_tick] at h
  cases h
  refine .ticked rfl ?_
  have h := (step4Output_sameButHistory (tickAdvance s)).2.2.2.2.2 k
  rw [tickAdvance_oper] at h
  exact h

/-- The inversion lemma: every instruction that answers a next state changes each operator in one of the ways of
`OperChange`. -/
theorem exec_operChange {i : Instr} {s t : State} (h : exec i s = .next t) (k : Slot) :
    OperChange s t k i := by
  cases i with
  | wrAvekm j v => cases h; exact .params rfl rfl (modOper_sameDynamic _ _ _ _ fun _ => .refl _)
  | wrKsltl j v => cases h; exact .params rfl rfl (modOper_sameDynamic _ _ _ _ fun _ => .refl _)
  | wrArdr j v => cases h; exact .params rfl rfl (modOper_sameDynamic _ _ _ _ fun _ => .refl _)
  | wrSlrr j v => cases h; exact .params rfl rfl (modOper_sameDynamic _ _ _ _ fun _ => .refl _)
  | wrWs j v =>
    cases h
    refine .params rfl rfl ?_
    split
    · exact modOper_sameDynamic _ _ _ _ fun _ => .refl _
    · exact .refl _
  | wrRhy v => cases h; exact wrRhy_operChange s k v
  | wrKbf c v => cases h; exact wrKbf_operChange s k c v _
  | tick => exact tick_operChange s t k h
  | reset => cases h; exact .wasReset rfl (withUnitReset_oper s k)
  | _ => cases h; exact .params rfl rfl (.refl _)

end Sys2Proof
end

