-- ==== Sys2Proof/Laws/Fields.lean ====
section
/-! SUPPORT. Bit fields as numbers: what each field of a data byte, and each word that is put together from fields,
is as a natural number (R62, R81, R87, R120 to R122). -/

namespace Sys2Proof

open Sys2Proof.Machine

/-- A concatenation is the upper part, shifted up, plus the lower part. -/
theorem toNat_append_add {m n : Nat} (x : BitVec m) (y : BitVec n) :
    (x ++ y).toNat = x.toNat * 2 ^ n + y.toNat := by
  rw [BitVec.toNat_append, ← Nat.shiftLeft_add_eq_or_of_lt y.isLt, Nat.shiftLeft_eq]

/-- A bit of a bit vector is the parity of a quotient. -/
theorem toNat_getLsbD {n : Nat} (x : BitVec n) (k : Nat) :
    (x.getLsbD k).toNat = x.toNat / 2 ^ k % 2 := by
  simp only [BitVec.getLsbD, Nat.testBit, Nat.shiftRight_eq_div_pow, Nat.one_and_eq_mod_two]
  rcases Nat.mod_two_eq_zero_or_one (x.toNat / 2 ^ k) with h | h <;> simp [h]

/-- A bit is set exactly where that quotient is odd. -/
theorem getLsbD_iff {n : Nat} (x : BitVec n) (k : Nat) :
    x.getLsbD k = true ↔ x.toNat / 2 ^ k % 2 = 1 := by
  rw [← toNat_getLsbD]; cases x.getLsbD k <;> simp

/-- A field of `len` bits from bit `lo` is a quotient's remainder. -/
theorem toNat_field {n : Nat} (x : BitVec n) (lo len : Nat) :
    (x.extractLsb' lo len).toNat = x.toNat / 2 ^ lo % 2 ^ len := by
  rw [BitVec.extractLsb'_toNat, Nat.shiftRight_eq_div_pow]

theorem commandWord_toNat (b : Bool) (addr data : Byte) :
    (commandWord b addr data).toNat = b.toNat * 65536 + addr.toNat * 256 + data.toNat := by
  simp only [commandWord, BitVec.toNat_cast, toNat_append_add, BitVec.toNat_ofBool]
  ring

theorem groupAddr_toNat (g : BitVec 3) (low : BitVec 5) :
    (groupAddr g low).toNat = g.toNat * 32 + low.toNat := by
  simp only [groupAddr, BitVec.toNat_cast, toNat_append_add]; omega

theorem channelLow_toNat (x : Bool) (c : BitVec 4) :
    (channelLow x c).toNat = x.toNat * 16 + c.toNat := by
  simp only [channelLow, BitVec.toNat_cast, toNat_append_add, BitVec.toNat_ofBool]; omega

end Sys2Proof

namespace Sys2Proof.Machine

theorem setFnumLow_toNat (v : Byte) (bf : BitVec 13) :
    (setFnumLow v bf).toNat = bf.toNat / 256 * 256 + v.toNat := by
  have := bf.isLt
  simp only [setFnumLow, BitVec.toNat_cast, toNat_append_add, toNat_field]
  omega

theorem setBlockFnumHigh_toNat (v : Byte) (bf : BitVec 13) :
    (setBlockFnumHigh v bf).toNat = v.toNat % 32 * 256 + bf.toNat % 256 := by
  simp only [setBlockFnumHigh, fieldBlockFnumHi, BitVec.toNat_cast, toNat_append_add, toNat_field]
  omega

/-- The key code is the block and, below it, fnum[8] or fnum[9] (R122). -/
theorem keyCode_toNat (mode : Byte) (bf : BitVec 13) :
    (keyCode mode bf).toNat =
      bf.toNat / 1024 * 2 +
        (if mode.getLsbD 6 then bf.toNat / 256 % 2 else bf.toNat / 512 % 2) := by
  have := bf.isLt
  simp only [keyCode, BitVec.toNat_cast, toNat_append_add, toNat_field, BitVec.toNat_ofBool]
  split <;> rw [toNat_getLsbD] <;> omega

section Bytes
variable (v : Byte)

@[simp] theorem fieldMult_toNat : (fieldMult v).toNat = v.toNat % 16 := by
  simp only [fieldMult, toNat_field]; omega

@[simp] theorem fieldKsl_toNat : (fieldKsl v).toNat = v.toNat / 64 := by
  have := v.isLt
  simp only [fieldKsl, toNat_field]; omega

@[simp] theorem fieldTl_toNat : (fieldTl v).toNat = v.toNat % 64 := by
  simp only [fieldTl, toNat_field]; omega

@[simp] theorem fieldAr_toNat : (fieldAr v).toNat = v.toNat / 16 := by
  have := v.isLt
  simp only [fieldAr, toNat_field]; omega

@[simp] theorem fieldDr_toNat : (fieldDr v).toNat = v.toNat % 16 := by
  simp only [fieldDr, toNat_field]; omega

@[simp] theorem fieldSl_toNat : (fieldSl v).toNat = v.toNat / 16 := by
  have := v.isLt
  simp only [fieldSl, toNat_field]; omega

@[simp] theorem fieldRr_toNat : (fieldRr v).toNat = v.toNat % 16 := by
  simp only [fieldRr, toNat_field]; omega

end Bytes

end Sys2Proof.Machine
end

