-- ==== Sys2Proof/Laws/PerInstr.lean ====
section
/-! SUPPORT. Statements made per instruction. `TableRow`: the encoder writes the row of spec/opcode_table.json that
the instruction's mnemonic names: under the row's mask its word is the row's match. -/

namespace Sys2Proof.Laws

/-- The match and the mask of an instruction's row in spec/opcode_table.json; TICK and RESET have none (R81). -/
def rowBits : Instr → Option (CmdWord × CmdWord)
  | .wrTest _ => some (0x00100#17, 0x1FF00#17)
  | .wrT1 _ => some (0x00200#17, 0x1FF00#17)
  | .wrT2 _ => some (0x00300#17, 0x1FF00#17)
  | .wrTctl _ => some (0x00400#17, 0x1FF00#17)
  | .wrMode _ => some (0x00800#17, 0x1FF00#17)
  | .ignoredGlobal _ _ => some (0x00000#17, 0x1E000#17)
  | .wrAvekm _ _ => some (0x02000#17, 0x1E000#17)
  | .ignoredOff20 _ _ => some (0x02000#17, 0x1E000#17)
  | .wrKsltl _ _ => some (0x04000#17, 0x1E000#17)
  | .ignoredOff40 _ _ => some (0x04000#17, 0x1E000#17)
  | .wrArdr _ _ => some (0x06000#17, 0x1E000#17)
  | .ignoredOff60 _ _ => some (0x06000#17, 0x1E000#17)
  | .wrSlrr _ _ => some (0x08000#17, 0x1E000#17)
  | .ignoredOff80 _ _ => some (0x08000#17, 0x1E000#17)
  | .wrWs _ _ => some (0x0E000#17, 0x1E000#17)
  | .ignoredOffE0 _ _ => some (0x0E000#17, 0x1E000#17)
  | .wrRhy _ => some (0x0BD00#17, 0x1FF00#17)
  | .wrFnuml _ _ => some (0x0A000#17, 0x1F000#17)
  | .wrKbf _ _ => some (0x0B000#17, 0x1F000#17)
  | .ignoredChAb _ _ _ => some (0x0A000#17, 0x1E000#17)
  | .wrFbcon _ _ => some (0x0C000#17, 0x1F000#17)
  | .wrFbconAlias _ _ => some (0x0D000#17, 0x1F000#17)
  | .ignoredChCd _ _ _ => some (0x0C000#17, 0x1E000#17)
  | .ignoredBank _ _ => some (0x10000#17, 0x10000#17)
  | .tick => none
  | .reset => none

section Masks
variable (b x : Bool) (addr v : Byte) (g : BitVec 3) (low : BitVec 5) (c : BitVec 4)

/-- A row that fixes the bank bit and the whole address. -/
theorem mask_address : commandWord b addr v &&& 0x1FF00#17 = commandWord b addr 0#8 := by
  apply BitVec.eq_of_getLsbD_eq
  intro i hi
  rw [BitVec.getLsbD_and, commandWord_getLsbD, commandWord_getLsbD]
  interval_cases i <;> simp

/-- A row that fixes the bank bit and addr[7:5]. -/
theorem mask_group : wordOf g low v &&& 0x1E000#17 = wordOf g 0#5 0#8 := by
  apply BitVec.eq_of_getLsbD_eq
  intro i hi
  simp only [wordOf]
  rw [BitVec.getLsbD_and, commandWord_getLsbD, commandWord_getLsbD, groupAddr_getLsbD,
    groupAddr_getLsbD]
  interval_cases i <;> simp

/-- A row that fixes the bank bit and addr[7:4]. -/
theorem mask_channel :
    wordOf g (channelLow x c) v &&& 0x1F000#17 = wordOf g (channelLow x 0#4) 0#8 := by
  apply BitVec.eq_of_getLsbD_eq
  intro i hi
  simp only [wordOf]
  rw [BitVec.getLsbD_and, commandWord_getLsbD, commandWord_getLsbD, groupAddr_getLsbD,
    groupAddr_getLsbD, channelLow_getLsbD, channelLow_getLsbD]
  interval_cases i <;> simp

/-- The row that fixes the bank bit alone. -/
theorem mask_bank : commandWord true addr v &&& 0x10000#17 = 0x10000#17 := by
  apply BitVec.eq_of_getLsbD_eq
  intro i hi
  rw [BitVec.getLsbD_and, commandWord_getLsbD]
  interval_cases i <;> simp

end Masks

/-- The instruction's command is the one its opcode-table row gives: a word that meets the row's match under its
mask, or, for TICK and RESET, no word (R81, R85). -/
def TableRow.Statement (i : Instr) : Prop :=
  match rowBits i, encode i with
  | some row, .write w => w &&& row.2 = row.1
  | none, .tick => i = .tick
  | none, .reset => i = .reset
  | _, _ => False

namespace TableRow

theorem wrTest (data : Byte) : Statement (.wrTest data) := mask_address _ _ data

theorem wrT1 (data : Byte) : Statement (.wrT1 data) := mask_address _ _ data

theorem wrT2 (data : Byte) : Statement (.wrT2 data) := mask_address _ _ data

theorem wrTctl (data : Byte) : Statement (.wrTctl data) := mask_address _ _ data

theorem wrMode (data : Byte) : Statement (.wrMode data) := mask_address _ _ data

theorem ignoredGlobal (a : BitVec 5) (data : Byte) : Statement (.ignoredGlobal a data) :=
    mask_group data _ _

theorem wrAvekm (s : Slot) (data : Byte) : Statement (.wrAvekm s data) := mask_group data _ _

theorem ignoredOff20 (off : BitVec 5) (data : Byte) : Statement (.ignoredOff20 off data) :=
    mask_group data _ _

theorem wrKsltl (s : Slot) (data : Byte) : Statement (.wrKsltl s data) := mask_group data _ _

theorem ignoredOff40 (off : BitVec 5) (data : Byte) : Statement (.ignoredOff40 off data) :=
    mask_group data _ _

theorem wrArdr (s : Slot) (data : Byte) : Statement (.wrArdr s data) := mask_group data _ _

theorem ignoredOff60 (off : BitVec 5) (data : Byte) : Statement (.ignoredOff60 off data) :=
    mask_group data _ _

theorem wrSlrr (s : Slot) (data : Byte) : Statement (.wrSlrr s data) := mask_group data _ _

theorem ignoredOff80 (off : BitVec 5) (data : Byte) : Statement (.ignoredOff80 off data) :=
    mask_group data _ _

theorem wrWs (s : Slot) (data : Byte) : Statement (.wrWs s data) := mask_group data _ _

theorem ignoredOffE0 (off : BitVec 5) (data : Byte) : Statement (.ignoredOffE0 off data) :=
    mask_group data _ _

theorem wrRhy (data : Byte) : Statement (.wrRhy data) := mask_address _ _ data

theorem wrFnuml (c : Channel) (data : Byte) : Statement (.wrFnuml c data) := mask_channel _ data _ _

theorem wrKbf (c : Channel) (data : Byte) : Statement (.wrKbf c data) := mask_channel _ data _ _

theorem ignoredChAb (x : Bool) (c : BitVec 4) (data : Byte) : Statement (.ignoredChAb x c data) :=
    mask_group data _ _

theorem wrFbcon (c : Channel) (data : Byte) : Statement (.wrFbcon c data) := mask_channel _ data _ _

theorem wrFbconAlias (c : Channel) (data : Byte) : Statement (.wrFbconAlias c data) :=
    mask_channel _ data _ _

theorem ignoredChCd (x : Bool) (c : BitVec 4) (data : Byte) : Statement (.ignoredChCd x c data) :=
    mask_group data _ _

theorem ignoredBank (addr data : Byte) : Statement (.ignoredBank addr data) := mask_bank addr data

theorem tick : Statement (.tick) := rfl

theorem reset : Statement (.reset) := rfl

end TableRow

end Sys2Proof.Laws
end

