-- ==== Sys2Proof/Tests/Slice0.lean ====
section
/-! SUPPORT. The model's own tests. Words are written out bit by bit from the encodings of spec/opcode_table.json
(bank, address, data); results come from 95_test_vectors.md (rows named in the comments) or by hand from the rules.
Witnesses show states and operands that meet the hypotheses of the statements. -/

namespace Sys2Proof.Tests

open Sys2Proof Sys2Proof.Machine

-- One test after another: checked all at once they ask for more threads than the package's check allows.
set_option Elab.async false

/-! ## Small states -/

/-- The state an instruction leaves, or the state before where it answers none. -/
def after (i : Instr) (s : State) : State :=
  match exec i s with
  | .next t => t
  | .fault _ => s
  | .refused _ => s

/-- The reset state with one operator changed. -/
def withOper (i : Slot) (o : Oper) : State := State.reset.modOper i fun _ => o

/-- The reset state with one channel changed. -/
def withChan (c : Channel) (ch : Chan) : State := State.reset.modChan c fun _ => ch

/-- The reset state with the host's next operation. -/
def withOp (op : HostOp) : State := { State.reset with pending := [op] }

/-- An operator at full level, held in SUS (R185). -/
def heldOper : Oper := { Oper.reset with egt := true, key := 1#2, eg := .sus, vol := 0#9 }

/-- The parameters with ALIAS_D0 = false. -/
def noAlias : Config := { Config.recommended with aliasD0 := false }

/-! ## Well-formedness: one ill-formed term for each check -/

theorem test_illformed_global :
    (([0x01#5, 0x02#5, 0x03#5, 0x04#5, 0x08#5].map fun a =>
      wellFormed Config.recommended (.ignoredGlobal a 0#8)) = [false, false, false, false, false]) := by
  decide

theorem test_illformed_off20 : wellFormed Config.recommended (.ignoredOff20 0x15#5 0#8) = false := by
  decide

theorem test_illformed_off40 : wellFormed Config.recommended (.ignoredOff40 0x00#5 0#8) = false := by
  decide

theorem test_illformed_off60 : wellFormed Config.recommended (.ignoredOff60 0x05#5 0#8) = false := by
  decide

theorem test_illformed_off80 : wellFormed Config.recommended (.ignoredOff80 0x08#5 0#8) = false := by
  decide

theorem test_illformed_offE0 : wellFormed Config.recommended (.ignoredOffE0 0x0D#5 0#8) = false := by
  decide

theorem test_illformed_chAb_channel :
    wellFormed Config.recommended (.ignoredChAb true 0x8#4 0#8) = false := by decide

theorem test_illformed_chAb_rhythm :
    wellFormed Config.recommended (.ignoredChAb true 0xD#4 0#8) = false := by decide

theorem test_illformed_alias : wellFormed noAlias (.wrFbconAlias 3 0#8) = false := by decide

theorem test_illformed_chCd_channel : wellFormed noAlias (.ignoredChCd false 0x8#4 0#8) = false := by
  decide

theorem test_illformed_chCd_alias :
    wellFormed Config.recommended (.ignoredChCd true 0x8#4 0#8) = false := by decide

/-- The neighbours of those terms are well formed. -/
theorem test_wellformed_neighbours :
    wellFormed Config.recommended (.ignoredGlobal 0x05#5 0#8) = true ∧
    wellFormed Config.recommended (.ignoredOff20 0x16#5 0#8) = true ∧
    wellFormed Config.recommended (.ignoredChAb false 0xD#4 0#8) = true ∧
    wellFormed Config.recommended (.ignoredChAb true 0x9#4 0#8) = true ∧
    wellFormed Config.recommended (.ignoredChCd false 0x9#4 0#8) = true ∧
    wellFormed noAlias (.ignoredChCd true 0x8#4 0#8) = true := by decide

/-! ## Decoding, one word or more per constructor -/

-- D1: 0, 0000 0001, 0010 0000
theorem test_decode_wrTest : decodeTableWord 17 0b00000000100100000 = some (.wrTest 0x20#8) := by decide
-- D3: 0, 0000 0010, 1010 1011
theorem test_decode_wrT1 : decodeTableWord 17 0b00000001010101011 = some (.wrT1 0xAB#8) := by decide
-- D4: 0, 0000 0011, 1100 1101
theorem test_decode_wrT2 : decodeTableWord 17 0b00000001111001101 = some (.wrT2 0xCD#8) := by decide
-- D5: 0, 0000 0100, 0111 1111
theorem test_decode_wrTctl : decodeTableWord 17 0b00000010001111111 = some (.wrTctl 0x7F#8) := by decide
-- D7: 0, 0000 1000, 1100 0000
theorem test_decode_wrMode : decodeTableWord 17 0b00000100011000000 = some (.wrMode 0xC0#8) := by decide
-- D10: 0, 0001 1111, 1111 1111
theorem test_decode_ignoredGlobal :
    decodeTableWord 17 0b00001111111111111 = some (.ignoredGlobal 0x1F#5 0xFF#8) := by decide
-- D12: 0, 0010 0011, 0000 0001 (offset 0x03 is slot 1)
theorem test_decode_wrAvekm : decodeTableWord 17 0b00010001100000001 = some (.wrAvekm 1 0x01#8) := by
  decide
-- D13: 0, 0010 0110, 1111 1111
theorem test_decode_ignoredOff20 :
    decodeTableWord 17 0b00010011011111111 = some (.ignoredOff20 0x06#5 0xFF#8) := by decide
-- D22: 0, 0100 0011, 1100 0101
theorem test_decode_wrKsltl : decodeTableWord 17 0b00100001111000101 = some (.wrKsltl 1 0xC5#8) := by
  decide
-- 0, 0100 1110, 0000 0001 (offset 0x0E)
theorem test_decode_ignoredOff40 :
    decodeTableWord 17 0b00100111000000001 = some (.ignoredOff40 0x0E#5 0x01#8) := by decide
-- D23: 0, 0111 0101, 1010 0011 (offset 0x15 is slot 17)
theorem test_decode_wrArdr : decodeTableWord 17 0b00111010110100011 = some (.wrArdr 17 0xA3#8) := by
  decide
-- 0, 0111 0110, 0000 0001 (offset 0x16)
theorem test_decode_ignoredOff60 :
    decodeTableWord 17 0b00111011000000001 = some (.ignoredOff60 0x16#5 0x01#8) := by decide
-- D24: 0, 1001 0010, 1111 0111 (offset 0x12 is slot 16)
theorem test_decode_wrSlrr : decodeTableWord 17 0b01001001011110111 = some (.wrSlrr 16 0xF7#8) := by
  decide
-- 0, 1001 1111, 0000 0001 (offset 0x1F)
theorem test_decode_ignoredOff80 :
    decodeTableWord 17 0b01001111100000001 = some (.ignoredOff80 0x1F#5 0x01#8) := by decide
-- D27: 0, 1110 0000, 1111 1110
theorem test_decode_wrWs : decodeTableWord 17 0b01110000011111110 = some (.wrWs 0 0xFE#8) := by decide
-- D28: 0, 1110 0110, 0000 0011
theorem test_decode_ignoredOffE0 :
    decodeTableWord 17 0b01110011000000011 = some (.ignoredOffE0 0x06#5 0x03#8) := by decide
-- D37: 0, 1011 1101, 1110 0000
theorem test_decode_wrRhy : decodeTableWord 17 0b01011110111100000 = some (.wrRhy 0xE0#8) := by decide
-- D31: 0, 1010 1000, 1111 1111
theorem test_decode_wrFnuml : decodeTableWord 17 0b01010100011111111 = some (.wrFnuml 8 0xFF#8) := by
  decide
-- D34: 0, 1011 0000, 0011 0010
theorem test_decode_wrKbf : decodeTableWord 17 0b01011000000110010 = some (.wrKbf 0 0x32#8) := by decide
-- D36: 0, 1011 1001, 0011 0010
theorem test_decode_ignoredChAb :
    decodeTableWord 17 0b01011100100110010 = some (.ignoredChAb true 0x9#4 0x32#8) := by decide
-- D40: 0, 1100 1000, 0000 0101
theorem test_decode_wrFbcon : decodeTableWord 17 0b01100100000000101 = some (.wrFbcon 8 0x05#8) := by
  decide
-- D42: 0, 1101 0011, 0000 0101
theorem test_decode_wrFbconAlias :
    decodeTableWord 17 0b01101001100000101 = some (.wrFbconAlias 3 0x05#8) := by decide
-- D41: 0, 1100 1001, 0000 1111
theorem test_decode_ignoredChCd :
    decodeTableWord 17 0b01100100100001111 = some (.ignoredChCd false 0x9#4 0x0F#8) := by decide
-- D44: 1, 0010 0000, 1111 1111
theorem test_decode_ignoredBank :
    decodeTableWord 17 0b10010000011111111 = some (.ignoredBank 0x20#8 0xFF#8) := by decide
-- D47: the alias word while ALIAS_D0 = false
theorem test_decode_noAlias :
    decode noAlias (.write 0b01101001100000101#17) = .ignoredChCd true 0x3#4 0x05#8 := by decide
-- R81: TICK and RESET are no words
theorem test_decode_operations :
    decode Config.recommended .tick = .tick ∧ decode Config.recommended .reset = .reset := by decide
-- A number of 18 bits is no command word.
theorem test_decode_tooLong : decodeTableWord 24 0b100000000000000000 = none := by decide

/-! ## One step of each instruction -/

-- D1, D2
theorem test_wrTest : (after (.wrTest 0x20#8) State.reset).g.wavesel = true := by decide
theorem test_wrTest_otherBits : (after (.wrTest 0xDF#8) State.reset).g.wavesel = false := by decide
-- D3, D4
theorem test_wrT1 : (after (.wrT1 0xAB#8) State.reset).g.t1 = 0xAB#8 := by decide
theorem test_wrT2 : (after (.wrT2 0xCD#8) State.reset).g.t2 = 0xCD#8 := by decide
-- D5, D6
theorem test_wrTctl : (after (.wrTctl 0x7F#8) State.reset).g.tctl = 0x63#8 := by decide
theorem test_wrTctl_irqReset :
    (after (.wrTctl 0x80#8) (State.reset.modGlob fun g => { g with tctl := 3, status := 7 })).g =
      (State.reset.modGlob fun g => { g with tctl := 3 }).g := by decide
-- D7
theorem test_wrMode : (after (.wrMode 0xC0#8) State.reset).g.mode = 0xC0#8 := by decide
-- S2, step 3: the key code waits
theorem test_wrMode_kcode :
    ((after (.wrMode 0x40#8) (withChan 0 { Chan.reset with blockFnum := 0x1244, kcode := 9 })).chan
      0).kcode = 9#4 := by decide
-- D11
theorem test_wrAvekm :
    (after (.wrAvekm 0 0xFF#8) State.reset).oper 0 =
      { Oper.reset with am := true, vib := true, egt := true, ksr := true, mult := 15#4 } := by
  decide +kernel
-- O1 to O5: MUL of mult 7, 15, 0, 11, 10
theorem test_wrAvekm_mult :
    ([0xE7#8, 0x1F#8, 0x00#8, 0x0B#8, 0x0A#8].map fun v =>
      mulOf ((after (.wrAvekm 0 v) State.reset).oper 0)) = [14, 30, 1, 20, 20] := by decide +kernel
-- D22
theorem test_wrKsltl :
    (after (.wrKsltl 1 0xC5#8) State.reset).oper 1 = { Oper.reset with ksl := 3#2, tl := 5#6 } := by
  decide +kernel
-- O8: ksl 1 at block_fnum 0x1FFF
theorem test_wrKsltl_level :
    let s := after (.wrKsltl 0 0x45#8) (withChan 0 { Chan.reset with blockFnum := 0x1FFF })
    tll s.cfg (s.chan 0) (s.oper 0) = 76 := by decide +kernel
-- D23
theorem test_wrArdr :
    (after (.wrArdr 17 0xA3#8) State.reset).oper 17 = { Oper.reset with ar := 10#4, dr := 3#4 } := by
  decide +kernel
-- D24, O22
theorem test_wrSlrr :
    (after (.wrSlrr 16 0xF7#8) State.reset).oper 16 = { Oper.reset with sl := 15#4, rr := 7#4 } ∧
    slv ((after (.wrSlrr 16 0xF7#8) State.reset).oper 16) = 496 := by decide +kernel
-- D25, D27
theorem test_wrWs_gateClear : (after (.wrWs 0 0x03#8) State.reset).oper 0 = Oper.reset := by
  decide +kernel
theorem test_wrWs_gateSet :
    ((after (.wrWs 0 0xFE#8) (State.reset.modGlob fun g => { g with wavesel := true })).oper 0).ws =
      2#2 := by decide +kernel
-- D31
theorem test_wrFnuml :
    (after (.wrFnuml 8 0xFF#8) State.reset).chan 8 = { Chan.reset with blockFnum := 0xFF } := by
  decide +kernel
-- S2, step 5: the changed value takes the key code of NOTE-SEL = 1
theorem test_wrFnuml_noteSel :
    ((after (.wrFnuml 0 0x45#8)
      ((withChan 0 { Chan.reset with blockFnum := 0x1244, kcode := 9 }).modGlob fun g =>
        { g with mode := 0x40 })).chan 0) =
      { Chan.reset with blockFnum := 0x1245, kcode := 8 } := by decide +kernel
-- D34
theorem test_wrKbf :
    let s := after (.wrKbf 0 0x32#8) State.reset
    s.chan 0 = { Chan.reset with blockFnum := 0x1200, kcode := 9 } ∧
    s.oper 0 = { Oper.reset with key := 1#2, eg := .att } ∧
    s.oper 1 = { Oper.reset with key := 1#2, eg := .att } ∧ s.oper 2 = Oper.reset := by
  decide +kernel
-- S4, step 3's neighbour: a melodic key-off leaves a rhythm key held
theorem test_wrKbf_keyOff :
    ((after (.wrKbf 6 0x12#8) (withOper 12 { heldOper with key := 3#2 })).oper 12) =
      { heldOper with key := 2#2 } := by decide +kernel
-- S5, step 1
theorem test_wrRhy :
    let s := after (.wrRhy 0x3F#8) State.reset
    (∀ i : Slot, (s.oper i).key = if 12 ≤ i.val then 2#2 else 0#2) ∧ s.g.rhythm = true ∧
    s.g.rkeys = 0x1F#5 := by decide +kernel
-- S6, step 2: the snare's write releases the bass drum
theorem test_wrRhy_rekey :
    let s := after (.wrRhy 0x28#8) (withOper 12 { heldOper with key := 2#2 })
    s.oper 12 = { heldOper with key := 0#2, eg := .rel } ∧
    s.oper 15 = { Oper.reset with key := 2#2, eg := .att } := by decide +kernel
-- D39, D42
theorem test_wrFbcon :
    (after (.wrFbcon 0 0x0F#8) State.reset).chan 0 = { Chan.reset with fb := 7, con := true } := by
  decide +kernel
theorem test_wrFbconAlias :
    (after (.wrFbconAlias 3 0x05#8) State.reset).chan 3 = { Chan.reset with fb := 2, con := true } := by
  decide +kernel
-- D8, D13, D41, D46
theorem test_ignored :
    after (.ignoredGlobal 0x00#5 0xFF#8) State.reset = State.reset ∧
    after (.ignoredOff20 0x06#5 0xFF#8) State.reset = State.reset ∧
    after (.ignoredChCd false 0x9#4 0x0F#8) State.reset = State.reset ∧
    after (.ignoredBank 0xB0#8 0x32#8) State.reset = State.reset := by decide +kernel

/-- Channel 0 keyed with frequency 0x1244, as in S1 and S3 (41_channel_registers.md). -/
def keyed (carrier : Oper) : State :=
  ((withChan 0 { Chan.reset with blockFnum := 0x1244, kcode := 9 }).modOper 0 fun o =>
    { o with key := 1#2, eg := .att }).modOper 1 fun _ => carrier

-- S3, step 3: the first TICK of an operator with AR = 0
theorem test_tick_counters :
    let s := after .tick (keyed { Oper.reset with key := 1#2, eg := .att })
    s.g.egCnt = 1#32 ∧ s.g.amCnt = 1 ∧ s.g.pmCnt = 1#13 ∧ s.g.noise = 0x400181#23 ∧
    (s.oper 0).cnt = 0x48800#32 ∧ (s.oper 1).cnt = 0x48800#32 ∧ s.observed = [⟨0, 0⟩] := by
  decide +kernel
-- S1, step 9: an ATT at vol 0 moves to DEC although its rate is 0, and sounds
theorem test_tick_sound :
    let s := after .tick
      (keyed { Oper.reset with ar := 0#4, mult := 0#4, key := 1#2, eg := .att, vol := 0#9 })
    (s.oper 1).eg = .dec ∧ s.observed = [⟨112, 112⟩] := by decide +kernel
-- R237 by hand: the top-cymbal at full level and waveform 0 stands on the sine's peak, doubled
theorem test_tick_rhythm :
    (after .tick ((withOper 17 { heldOper with key := 2#2 }).modGlob fun g =>
      { g with rhythm := true })).observed = [⟨8168, 8168⟩] := by decide +kernel
-- Table N, TICKs 8 and 16
theorem test_noise :
    noiseShift 0x800302#24 0x7F0103#23 = 0x7F8100#23 ∧
    noiseShift 0x800302#24 0x00FF02#23 = 0x007F81#23 := by decide
-- Table L, rows 448, 6847 and 13440
theorem test_lfo :
    lfoAm { State.reset.g with amDepth := true, amCnt := 448 } = 1 ∧
    lfoAm { State.reset.g with amCnt := 6847 } = 6 ∧
    (advanceLfoNoise 0x800302#24 { State.reset.g with amCnt := 13439 }).amCnt = 0 := by decide +kernel
-- Z1 by hand: RESET gives R290's columns over a changed state
theorem test_reset :
    after .reset (keyed heldOper) = State.reset := by decide +kernel

/-! ## The boundary with the host -/

/-- The state a step leaves, or the state before. -/
def stepped (s : State) : State :=
  match step s with
  | .next t => t
  | .fault _ => s
  | .refused _ => s

/-- The refusal a step answers. -/
def refusalOf (s : State) : Option Refusal :=
  match step s with
  | .next _ => none
  | .fault _ => none
  | .refused r => some r

theorem test_step_write : (stepped (withOp (.write 0 0x01 0x20))).g.wavesel = true := by decide +kernel
theorem test_step_withFetchWord :
    (stepped (State.reset.withFetchWord 17 0x002AB)) =
      State.reset.modGlob (fun g => { g with t1 := 0xAB#8 }) := by decide +kernel
-- D45: bank 2 is folded to b = 1 and ignored
theorem test_step_bank2 : stepped (withOp (.write 2 0x01 0x20)) = State.reset := by decide +kernel
-- R282: nothing pending, nothing happens
theorem test_step_idle : stepped State.reset = State.reset := by decide +kernel
-- R271: refused by name, not reduced modulo 256
theorem test_step_refused :
    refusalOf (withOp (.write (-1) 0 0)) = some (.outsideDomain (.negativeBank (-1))) ∧
    refusalOf (withOp (.write 0 256 0)) = some (.outsideDomain (.addrNotByte 256)) ∧
    refusalOf (withOp (.write 0 (-1) 0)) = some (.outsideDomain (.addrNotByte (-1))) ∧
    refusalOf (withOp (.write 1 255 256)) = some (.outsideDomain (.dataNotByte 256)) ∧
    refusalOf (withOp (.write 1 0 (-1))) = some (.outsideDomain (.dataNotByte (-1))) ∧
    refusalOf (withOp (.write 0 255 255)) = none := by decide +kernel
-- R88: comments, hexadecimal and decimal numbers, a repeated TICK
theorem test_parse :
    parseLine ['W', 'R', ' ', '0', 'x', 'b', 'D', ',', ' ', '3', '2', ';', 'x'] =
      .ok (some (.wr 0xBD 32)) ∧
    parseLine ['T', 'I', 'C', 'K', ' ', '3'] = .ok (some (.tick 3)) ∧
    parseLine [' ', ';', 'W', 'R'] = .ok none := by decide +kernel
-- R88: n >= 1
theorem test_parse_tickZero :
    parseLine ['T', 'I', 'C', 'K', ' ', '0'] = .error (.badOperands ['T', 'I', 'C', 'K']) := by
  decide +kernel
-- Log entry 15: of two bad lines the first is named, and the good one has no effect
theorem test_parse_firstBadLine :
    parseProgram ['R', 'E', 'S', 'E', 'T', '\n', 'X', '\n', 'Y'] = .error (.unknownOperation ['X']) ∧
    parseProgram ['R', 'E', 'S', 'E', 'T', '\n', 'T', 'I', 'C', 'K'] = .ok [.reset, .tick] := by
  refine ⟨rfl, rfl⟩
-- R89: KEYON 0, 4, 0x244 is WR 0xA0, 0x44 and WR 0xB0, 0x32 (S1, steps 2 and 3)
theorem test_expand_keyOn :
    expandLine (.keyOn 0 4#3 0x244#10) = [.write 0 0xA0 0x44, .write 0 0xB0 0x32] := by decide +kernel
theorem test_expand_opSet :
    expandLine (.opSet 17 1 2 3 4) =
      [.write 0 0x35 1, .write 0 0x55 2, .write 0 0x75 3, .write 0 0x95 4] := by decide +kernel

/-! ## Witnesses: the hypotheses of the statements can be met -/

theorem witness_ResetInstructionInstallsResetColumns :
    State.reset.cfg.noiseMask = 0x800302#24 ∧ State.reset.cfg.noiseSeed = 1#23 := by decide

/-- A state that is not the reset state meets the hypotheses. -/
theorem witness_CreationStateIsResetState :
    let s := after (.wrTest 0x20#8) State.reset
    s.cfg = State.reset.cfg ∧ s.pending = [] ∧ s.observed = [] ∧ s ≠ State.reset := by decide +kernel

theorem witness_WrTestSetsWaveformGate : (0xDF#8).getLsbD 5 = false := by decide

theorem witness_WrRhySetsFieldsAndKeysEveryDrum :
    (11 : Slot).val < 12 ∧
    ((17, 1) : Slot × Nat) ∈ [(12, 4), (13, 4), (14, 0), (15, 3), (16, 2), (17, 1)] := by decide

theorem witness_WrArdrWritesItsFields :
    (0x0F#8).toNat / 16 = 0 ∧ (0xF0#8).toNat % 16 = 0 ∧ (0xF0#8).toNat / 16 = 15 ∧
    2 ≤ ksrv { Chan.reset with kcode := 8#4 } Oper.reset := by decide

theorem witness_WrWsIsGatedByWavesel :
    State.reset.g.wavesel = false ∧ (after (.wrTest 0x20#8) State.reset).g.wavesel = true := by
  decide

/-- A clear latch and the three held ones. -/
theorem witness_KeyOnRestartsOnlyFromClearLatch :
    Oper.reset.key = 0#2 ∧ heldOper.key ≠ 0#2 ∧ { heldOper with key := 3#2 }.key ≠ 0#2 := by decide

theorem witness_KeyOffReleasesOnlyWhenBothBitsClear :
    Oper.reset.key = 0#2 ∧ { heldOper with key := 3#2 }.key &&& ~~~(2#2) ≠ 0#2 ∧
    heldOper.key ≠ 0#2 ∧ heldOper.key &&& ~~~(1#2) = 0#2 := by decide

theorem witness_FreqUpdateLatchesKeyCodeOnChange :
    (0#13) = Chan.reset.blockFnum ∧ (0x1FFF#13) ≠ Chan.reset.blockFnum := by decide

theorem witness_WrFnumlUpdatesLowFrequency :
    (0#13).toNat = (State.reset.chan 0).blockFnum.toNat / 256 * 256 + (0#8).toNat ∧
    (0#13) = (State.reset.chan 0).blockFnum := by decide +kernel

theorem witness_IgnoredWritesChangeNothing :
    isIgnored (.ignoredChCd true 0xF#4 0xFF#8) = true ∧ isIgnored (.ignoredBank 0x01#8 0x20#8) = true := by
  decide

/-- Banks 1 and 2, the address and the data at both ends of their ranges. -/
theorem witness_OtherBankWriteHasNoEffect :
    (withOp (.write 1 0 255)).pending = .write 1 0 255 :: [] ∧
    (withOp (.write 2 255 0)).pending = .write 2 255 0 :: [] ∧ (0 : Int) < 1 ∧ (255 : Int) ≤ 255 := by
  decide

theorem witness_EveryOperationCompletes : Instr.reset ≠ .tick ∧ Instr.tick = .tick := by decide

theorem witness_OffsetMapSelectsEachSlotOnce :
    slotOf 0x00#5 = some 0 ∧ slotOf 0x15#5 = some 17 ∧ slotOf 0x06#5 = none ∧ slotOf 0x1F#5 = none := by
  decide

theorem witness_DecodeEncodeRoundTrip :
    wellFormed noAlias (.ignoredChCd true 0x0#4 0xFF#8) = true ∧
    wellFormed Config.recommended (.wrFbconAlias 8 0xFF#8) = true := by decide

theorem witness_StepPerformsTheNextOperation :
    (withOp (.write 0 255 0)).pending = .write 0 255 0 :: [] ∧
    transcribe (.write 0 255 0) = .ok (.write 0b01111111100000000#17) ∧
    transcribe (.write 3 0 255) = .ok (.write 0b10000000011111111#17) ∧ State.reset.pending = [] := by
  refine ⟨by decide, rfl, rfl, rfl⟩

/-- Each clause at the values next to the domain, and the domain's own ends. -/
theorem witness_OperandsOutsideDomainAreRefused :
    (withOp (.write (-1) 0 0)).pending = .write (-1) 0 0 :: [] ∧ (-1 : Int) < 0 ∧
    (withOp (.write 0 (-1) 0)).pending = .write 0 (-1) 0 :: [] ∧
    (withOp (.write 0 256 0)).pending = .write 0 256 0 :: [] ∧ (255 : Int) < 256 ∧
    (withOp (.write 1 255 256)).pending = .write 1 255 256 :: [] ∧
    (withOp (.write 1 0 (-1))).pending = .write 1 0 (-1) :: [] ∧
    (withOp (.write 0 255 255)).pending = .write 0 255 255 :: [] ∧ (0 : Int) ≤ 0 := by decide

theorem witness_TickShiftsNoiseRegister :
    State.reset.cfg.noiseMask = 0x800302#24 ∧ State.reset.cfg.noiseMask.getLsbD 23 = true ∧
    State.reset.g.noise ≠ 0#23 ∧ (State.reset.modGlob fun g => { g with noise := 0#23 }).g.noise = 0#23 := by
  decide

/-- An operator at the fastest rates, in a phase and at a level. -/
def fastOper (p : EgPhase) (vol : BitVec 9) : Oper :=
  { Oper.reset with ar := 15#4, dr := 15#4, rr := 15#4, sl := 15#4, key := 1#2, eg := p, vol := vol }

/-- The step 0 of such an operator: due, with the increment its rate has. -/
def fastStep (p : EgPhase) (vol : BitVec 9) : Option Nat :=
  stepDue 0#32 Chan.reset (fastOper p vol) (fastOper p vol).eg

/-- The attack that ends and the one that goes on, by hand: 0 + (-1 * 4 >> 3) = -1, 511 + (-512 * 4 >> 3) = 255;
the decay below its bound, a percussive sustain, a release at and below the floor; a held sustain, OFF, and a step
that is not due. -/
theorem witness_EnvelopeStepFollowsTransitionTable :
    fastStep .att 0#9 = some 4 ∧ (0 : Int) + (((-(0 : Int) - 1) * 4) >>> (3 : Nat)) = -1 ∧
    fastStep .att 511#9 = some 4 ∧ (511 : Int) + (((-(511 : Int) - 1) * 4) >>> (3 : Nat)) = 255 ∧
    fastStep .dec 495#9 = some 4 ∧ (fastOper .dec 495#9).vol.toNat < 496 ∧
    fastStep .sus 0#9 = some 4 ∧ (fastOper .sus 0#9).egt = false ∧
    fastStep .rel 507#9 = some 4 ∧ 511 ≤ (fastOper .rel 507#9).vol.toNat + 4 ∧
    fastStep .rel 506#9 = some 4 ∧ (fastOper .rel 506#9).vol.toNat + 4 < 511 ∧
    (heldOper.eg = .sus ∧ heldOper.egt = true) ∧ Oper.reset.eg = .off ∧
    stepDue 1#32 Chan.reset { heldOper with rr := 1#4 } .sus = none := by decide +kernel

/-- Rate indices at both sides of every bound: 20, 67, 68, 71, 72, 75, 76, 77, 78; a zero rate; a step that is due and
one that is not. -/
theorem witness_EnvelopeStepsAreDueAtPowersOfTwo :
    rateField Oper.reset .att = some 0#4 ∧ rateField { Oper.reset with dr := 12#4 } .dec = some 12#4 ∧
    (let idx (r : BitVec 4) (kcode : BitVec 4) :=
      16 + 4 * r.toNat + ksrv { Chan.reset with kcode := kcode } Oper.reset
    [idx 1 0, idx 12 12, idx 13 0, idx 13 12, idx 14 0, idx 14 12, idx 15 0, idx 15 4, idx 15 8] =
      [20, 67, 68, 71, 72, 75, 76, 77, 78]) ∧
    (2048#32).toNat % 2 ^ 11 = 0 ∧ (2047#32).toNat % 2 ^ 11 ≠ 0 ∧ EgPhase.dec ≠ .att := by
  decide +kernel

theorem witness_DerivedValueAndVibratoRanges :
    (7 < 8 ∧ 15 < 16 ∧ 209 < 210) ∧ pmOff { State.reset.g with pmDepth := true } 0x1080#13 = 1 ∧
    pmOff { State.reset.g with pmDepth := true, pmCnt := 4096#13 } 0x1080#13 = -1 := by decide +kernel

theorem witness_FeedbackOffsetIsFlooringShift :
    fbOff 7#3 8168 = 2042 ∧ fbOff 7#3 (-8168) = -2042 ∧ fbOff 1#3 (-1) = -1 ∧ fbOff 0#3 8168 = 0 := by
  decide

theorem witness_QuietOperatorIsSilent : 384 ≤ volOf (withOper 0 { heldOper with vol := 384#9 }) 0 := by
  decide +kernel

/-- A state whose histories stand at the ends of their range, in either mode. -/
def ringing (rhythm : Bool) : State :=
  ((withOper 0 { heldOper with o0 := 4084, o1 := -4084 }).modGlob fun g => { g with rhythm := rhythm })

theorem witness_OutputAccumulatorRanges :
    HistoryInv (ringing false) ∧ HistoryInv (ringing true) ∧ (ringing false).g.rhythm = false ∧
    (ringing true).g.rhythm = true := by
  unfold HistoryInv InOutputRange; decide +kernel

theorem witness_OutputStepWritesOnlyModulatorHistories :
    (6 : Channel).val ≤ 6 ∧ (ringing false).g.rhythm = false ∧ (ringing true).g.rhythm = true := by decide

/-- Both ends of the tables, an index that wraps below 0, and both sides of OPCALC's test against 6144. -/
theorem witness_WaveTablesMeetTheirChecks :
    s0 0 = 4274 ∧ s0 511 = 4274 ∧ s0 512 = 4275 ∧ tlTab 6142 = 1 ∧ tlTab 6143 = -1 ∧
    (1023 : Int) = (((0#32).toNat / 65536 : Nat) + (-1 : Int)) % 1024 ∧
    6144 ≤ 384 * 16 + sinTab 2#2 255 ∧ 383 * 16 + sinTab 2#2 255 < 6144 := by decide +kernel

/-- A key-on from OFF; the reset state's operators are in OFF. -/
theorem witness_OffIsLeftOnlyByKeyOn :
    exec (.wrKbf 0 0x20#8) State.reset = .next (after (.wrKbf 0 0x20#8) State.reset) ∧
    (State.reset.oper 1).eg = .off ∧ ((after (.wrKbf 0 0x20#8) State.reset).oper 1).eg ≠ .off := by
  refine ⟨rfl, ?_⟩; decide +kernel

theorem witness_EnvelopePhaseNeverRegresses :
    exec (.wrKbf 0 0x00#8) (withOper 1 heldOper) =
      .next (after (.wrKbf 0 0x00#8) (withOper 1 heldOper)) ∧
    keysOn 1 (.wrKbf 0 0x00#8) = false := by
  refine ⟨rfl, ?_⟩; decide +kernel

theorem witness_PhaseAccumulatorHasThreeWriters :
    let s := withOper 1 { Oper.reset with cnt := 1#32 }
    exec .reset s = .next (after .reset s) ∧ ((after .reset s).oper 1).cnt ≠ (s.oper 1).cnt ∧
    exec (.wrKbf 0 0x20#8) s = .next (after (.wrKbf 0 0x20#8) s) ∧
    ((after (.wrKbf 0 0x20#8) s).oper 1).cnt ≠ (s.oper 1).cnt ∧
    (State.reset.oper 0).cnt = 0#32 ∧ (State.reset.oper 0).vib = false ∧
    ((withOper 0 { Oper.reset with vib := true }).oper 0).cnt = 0#32 := by
  refine ⟨rfl, ?_, rfl, ?_, ?_⟩ <;> decide +kernel

theorem witness_InstantAttackReachesFullLevelInOneTick :
    let s := (withOper 1 { Oper.reset with ar := 15#4, key := 1#2, eg := .att }).modChan 0 fun c =>
      { c with kcode := 8#4 }
    (s.oper 1).eg = .att ∧ rateIndex (s.oper 1).ar (ksrv (s.chanAt 1) (s.oper 1)) = 78 := by
  decide +kernel

theorem witness_EveryWriteIsIdempotent :
    isWrite (.wrKbf 8 0x20#8) = true ∧ isWrite (.ignoredBank 0#8 0#8) = true := by decide

theorem witness_RetriggerNeedsKeyOff :
    (0x20#8).getLsbD 5 = true ∧ (0x1F#8).getLsbD 5 = false ∧ chanOf 1 = 0 ∧
    ((withOper 1 heldOper).oper 1).key ≠ 0#2 ∧ ((withOper 1 heldOper).oper 1).key.getLsbD 1 = false := by
  decide +kernel

theorem witness_RhythmDutyIsTheHostsAlone :
    transcribe (.write 0 0xB6 0x20) = .ok (.write 0b01011011000100000#17) ∧
    (6 : Nat) ≤ (6 : Channel).val ∧ (ringing true).g.rhythm = true ∧ (0x20#8).getLsbD 5 = true ∧
    breaksRhythmDuty (ringing true) (.write 0 0xB6 0x20) = true ∧
    breaksRhythmDuty (ringing true) (.write 0 0xB5 0x20) = false := by
  refine ⟨rfl, ?_⟩; decide

theorem witness_SilenceLastsUntilKeyOn :
    Silent State.reset ∧ (∀ k : Slot, keysOn k .tick = false) ∧
    (∀ k : Slot, keysOn k (.wrKbf 0 0x1F#8) = false) := by
  unfold Silent; decide +kernel

/-- Two different states that agree on every field that is read. -/
theorem witness_UnreadFieldsNeverReachTheOutput :
    let t := State.reset.modGlob fun g =>
      { g with t1 := 1, t2 := 2, tctl := 3, status := 7, rkeys := 5, mode := 0xBF }
    SameReadFields State.reset t ∧ t ≠ State.reset := by
  unfold SameReadFields SameHostSide; decide +kernel

theorem witness_PhaseBitsAbove25NeverReachTheOutput :
    let t := withOper 0 { Oper.reset with cnt := 0xFC000000#32 }
    SamePhaseLow26 State.reset t ∧ t ≠ State.reset := by
  unfold SamePhaseLow26 SameHostSide; decide +kernel

theorem witness_EnvelopeCounterWrapChangesNoResult :
    let t := State.reset.modGlob fun g => { g with egCnt := 0xFFFF8000#32 }
    SameEnvelopeCounterLow15 State.reset t ∧ t ≠ State.reset := by
  unfold SameEnvelopeCounterLow15 SameHostSide; decide +kernel

/-- A key-off of a held operator: the latch, the phase and the agreement of both change hands. -/
theorem witness_StepKeepsKeyPhaseAgreement :
    let s := { withOper 1 heldOper with pending := [HostOp.write 0 0xB0 0] }
    KeyPhaseInv s ∧ step s = .next (stepped s) ∧ ((stepped s).oper 1).eg = .rel := by
  refine ⟨?_, rfl, ?_⟩
  · unfold KeyPhaseInv KeyPhaseAgree; decide +kernel
  · decide +kernel

theorem witness_StepKeepsDecayBelowSustain :
    let s := { withOper 1 { heldOper with eg := .dec, vol := 495#9 } with
      pending := [HostOp.write 0 0x83 0xF0] }
    DecayBelowInv s ∧ step s = .next (stepped s) ∧ (s.oper 1).eg = .dec := by
  refine ⟨?_, rfl, ?_⟩
  · unfold DecayBelowInv; decide +kernel
  · decide +kernel

theorem witness_StepKeepsFeedbackHistory :
    let s := { ringing false with pending := [HostOp.write 0 0xC0 0x0E] }
    HistoryInv s ∧ step s = .next (stepped s) := by
  refine ⟨?_, rfl⟩
  unfold HistoryInv InOutputRange; decide +kernel

theorem witness_StepKeepsTimerFlagsClear :
    TimerInv (withOp (.write 0 0x04 0x7F)) ∧
    step (withOp (.write 0 0x04 0x7F)) = .next (stepped (withOp (.write 0 0x04 0x7F))) := by
  refine ⟨?_, rfl⟩
  unfold TimerInv; decide

theorem witness_StepKeepsNoiseNonzero :
    NoiseInv (withOp .reset) ∧ step (withOp .reset) = .next (stepped (withOp .reset)) := by
  refine ⟨?_, rfl⟩
  unfold NoiseInv; decide

end Sys2Proof.Tests
end

section
/-! PROOF. What one step can do, what one instruction can do to the global record, and the invariants that every
step keeps (R25, R27, R38, R163, R222). -/

namespace Sys2Proof

open Sys2Proof.Machine

/-! ## One step -/

/-- R282. -/
theorem step_of_idle {s : State} (h : s.pending = []) : step s = .next s := by
  simp [step, fetch, h]

theorem step_of_pending {s : State} {op : HostOp} {rest : List HostOp} {cmd : Command}
    (hp : s.pending = op :: rest) (hc : transcribe op = .ok cmd) :
    step s = exec (decode s.cfg cmd) { s with pending := rest } := by
  simp [step, fetch, hp, hc]

theorem step_of_refused {s : State} {op : HostOp} {rest : List HostOp} {e : OperandError}
    (hp : s.pending = op :: rest) (he : transcribe op = .error e) :
    step s = .refused (.outsideDomain e) := by
  simp [step, fetch, hp, he]

/-- The inversion lemma of `step`: a step that answers a next state was idle, or performed the oldest pending
operation on the state without it. -/
theorem step_cases {s t : State} (h : step s = .next t) :
    (s.pending = [] ∧ t = s) ∨
      ∃ op rest cmd, s.pending = op :: rest ∧ transcribe op = .ok cmd ∧
        exec (decode s.cfg cmd) { s with pending := rest } = .next t := by
  cases hp : s.pending with
  | nil =>
    rw [step_of_idle hp] at h
    cases h
    exact .inl ⟨rfl, rfl⟩
  | cons op rest =>
    cases hc : transcribe op with
    | error e => rw [step_of_refused hp hc] at h; cases h
    | ok cmd => exact .inr ⟨op, rest, cmd, rfl, hc, step_of_pending hp hc ▸ h⟩

/-- A predicate that does not speak of the queue and that every instruction keeps is kept by every step. -/
theorem step_keeps {P : State → Prop} (hqueue : ∀ s rest, P s → P { s with pending := rest })
    (hexec : ∀ i s t, P s → exec i s = .next t → P t) (s t : State) (hs : P s)
    (h : step s = .next t) : P t := by
  rcases step_cases h with ⟨-, rfl⟩ | ⟨op, rest, cmd, -, -, hx⟩
  · exact hs
  · exact hexec _ _ _ (hqueue s rest hs) hx

/-! ## Key latch, envelope phase and attenuation (R38) -/

theorem KeyPhaseAgree.of_sameDynamic {o o' : Oper} (h : KeyPhaseAgree o) (hd : SameDynamic o o') :
    KeyPhaseAgree o' := by
  obtain ⟨hkey, heg, hvol, -, -, -⟩ := hd
  simpa only [KeyPhaseAgree, hkey, heg, hvol] using h

/-- The envelope phase after a key action on a held latch: a key-off that clears the latch moves ATT, DEC and SUS
to REL (R125, R126). -/
theorem keyTo_eg_of_held (on : Bool) (b : BitVec 2) {o : Oper} (h : o.key ≠ 0#2) :
    (keyTo on b o).eg =
      if on = false ∧ o.key &&& ~~~b = 0#2 ∧ egRank .rel < egRank o.eg then .rel else o.eg := by
  cases on
  · by_cases hc : o.key &&& ~~~b = 0#2 ∧ egRank .rel < egRank o.eg <;> simp [keyTo, keyOff, h, hc]
  · simp [keyTo, keyOn, h]

theorem KeyPhaseAgree.of_held {o : Oper} (hk : o.key ≠ 0#2)
    (hp : o.eg = .att ∨ o.eg = .dec ∨ o.eg = .sus) : KeyPhaseAgree o :=
  ⟨fun h => by simp [h] at hp, fun h => absurd h hk, fun _ => hp⟩

theorem KeyPhaseAgree.of_released {o : Oper} (hk : o.key = 0#2) (hp : o.eg = .rel) :
    KeyPhaseAgree o :=
  ⟨fun h => by simp [h] at hp, fun _ => .inl hp, fun h => absurd hk h⟩

theorem KeyPhaseAgree.of_off {o : Oper} (hk : o.key = 0#2) (hp : o.eg = .off) (hv : o.vol = 511#9) :
    KeyPhaseAgree o :=
  ⟨fun _ => hv, fun _ => .inr hp, fun h => absurd hk h⟩

/-- A key action keeps the agreement: a restarted operator is in ATT with its latch set, a latch that is cleared
takes its operator to REL, and a latch that stays set leaves the phase. -/
theorem KeyPhaseAgree.keyTo (on : Bool) {b : BitVec 2} (hb : b ≠ 0#2) {o : Oper} (h : KeyPhaseAgree o) :
    KeyPhaseAgree (Machine.keyTo on b o) := by
  by_cases hk : o.key = 0#2
  · rw [keyTo_of_clear on b o hk]
    cases on
    · exact h
    · exact .of_held hb (.inl rfl)
  · obtain ⟨-, -, hheld⟩ := h
    have hp := hheld hk
    have heg := keyTo_eg_of_held on b hk
    have hkey := keyTo_key on b o
    cases on
    · by_cases hc : o.key &&& ~~~b = 0#2
      · have hr : egRank .rel < egRank o.eg := by rcases hp with e | e | e <;> rw [e] <;> decide
        exact .of_released (hkey.trans hc) (heg.trans (if_pos ⟨rfl, hc, hr⟩))
      · have hsame := heg.trans (if_neg fun hr => hc hr.2.1)
        exact .of_held (fun e => hc (hkey.symm.trans e)) (by rwa [hsame])
    · have hor : o.key ||| b ≠ 0#2 := fun e => hk (BitVec.or_eq_zero_iff.1 e).1
      have hsame := heg.trans (if_neg (by simp))
      exact .of_held (fun e => hor (hkey.symm.trans e)) (by rwa [hsame])

/-- An envelope step keeps the agreement: the latch stays, and the phase moves from ATT to DEC, from DEC to SUS, or
from REL to OFF at maximum attenuation. -/
theorem KeyPhaseAgree.egStep (n : BitVec 32) (c : Chan) {o : Oper} (h : KeyPhaseAgree o) :
    KeyPhaseAgree (Machine.egStep n c o) := by
  by_cases hoff : o.eg = .off
  · rwa [egStep_of_off n c o hoff]
  obtain ⟨-, hclear, hheld⟩ := h
  have hkey := egStep_key n c o
  rcases egStep_phase n c o with e | ⟨e, e', -⟩ | ⟨e, e'⟩ | ⟨e, e', hv⟩
  · refine ⟨fun h => absurd (e.symm.trans h) hoff, ?_⟩
    rw [hkey, e]
    exact ⟨hclear, hheld⟩
  · have hset : o.key ≠ 0#2 := fun hk => by simpa [e] using hclear hk
    exact .of_held (hkey ▸ hset) (.inr (.inl e'))
  · have hset : o.key ≠ 0#2 := fun hk => by simpa [e] using hclear hk
    exact .of_held (hkey ▸ hset) (.inr (.inr e'))
  · have hzero : o.key = 0#2 := by_contra fun hk => by simpa [e] using hheld hk
    exact .of_off (hkey.trans hzero) e' hv

theorem KeyPhaseAgree.reset : KeyPhaseAgree Oper.reset := .of_off rfl rfl rfl

theorem exec_keeps_keyPhaseInv (i : Instr) (s t : State) (hs : KeyPhaseInv s)
    (h : exec i s = .next t) : KeyPhaseInv t := by
  intro k
  cases exec_operChange h k with
  | params _ _ hd => exact (hs k).of_sameDynamic hd
  | keyed _ b hb e =>
    rw [e]
    have hb0 : b ≠ 0#2 := by rcases hb with rfl | rfl <;> decide
    exact (hs k).keyTo _ hb0
  | ticked _ e =>
    rw [e]
    exact (hs k).egStep _ _
  | wasReset _ e => rw [e]; exact .reset

/-- Settles O56: by the inversion lemma `exec_operChange`, each kind of change keeps the agreement. -/
theorem stepKeepsKeyPhaseAgreement : Obligations.StepKeepsKeyPhaseAgreement :=
  step_keeps (fun _ _ hs => hs) exec_keeps_keyPhaseInv

/-! ## Feedback histories (R27, R222) -/

/-- Every instruction but TICK keeps an operator's feedback history or clears it. -/
theorem OperChange.history {s t : State} {k : Slot} {i : Instr} (h : OperChange s t k i)
    (hi : i ≠ .tick) :
    ((t.oper k).o0 = (s.oper k).o0 ∧ (t.oper k).o1 = (s.oper k).o1) ∨
      ((t.oper k).o0 = 0 ∧ (t.oper k).o1 = 0) := by
  cases h with
  | params _ _ hd =>
    obtain ⟨-, -, -, -, h0, h1⟩ := hd
    exact .inl ⟨h0, h1⟩
  | keyed _ b _ e => rw [e]; exact .inl ⟨keyTo_o0 .., keyTo_o1 ..⟩
  | ticked e _ => exact absurd e hi
  | wasReset _ e => rw [e]; exact .inr ⟨rfl, rfl⟩

theorem historyInv_tickAdvance {s : State} (h : HistoryInv s) : HistoryInv (tickAdvance s) := by
  intro i
  rw [tickAdvance_oper]
  simpa using h i

/-- A modulator step writes an output of operator 1 only, and that output is in range (R214, R222). -/
theorem historyInv_modStep {s : State} (h : HistoryInv s) (c : Channel) :
    HistoryInv (modStep s c).1 := by
  intro i
  rw [modStep_oper]
  split
  · next e =>
    have heven : i.val % 2 ≠ 1 := by simp [e, op1Of]
    obtain ⟨-, hlatest, -⟩ := h i
    exact ⟨hlatest, modOutput_range s c, fun hodd => absurd hodd heven⟩
  · exact h i

theorem historyInv_foldl_mixChannel (cs : List Channel) {acc : State × Int} (h : HistoryInv acc.1) :
    HistoryInv (cs.foldl mixChannel acc).1 := by
  induction cs generalizing acc with
  | nil => exact h
  | cons c cs ih => exact ih (historyInv_modStep h c)

theorem historyInv_step4Output {s : State} (h : HistoryInv s) : HistoryInv (step4Output s).1 := by
  have hm : HistoryInv ((melodicChannels s.g.rhythm).foldl mixChannel (s, 0)).1 :=
    historyInv_foldl_mixChannel _ h
  change HistoryInv (mixAcc s).1
  unfold mixAcc
  dsimp only
  split
  · exact historyInv_modStep hm 6
  · exact hm

theorem exec_keeps_historyInv (i : Instr) (s t : State) (hs : HistoryInv s)
    (h : exec i s = .next t) : HistoryInv t := by
  by_cases hi : i = .tick
  · subst hi
    cases (exec_tick s).symm.trans h
    exact historyInv_step4Output (historyInv_tickAdvance hs)
  · intro k
    rcases (exec_operChange h k).history hi with ⟨h0, h1⟩ | ⟨h0, h1⟩
    · rw [h0, h1]; exact hs k
    · simp [h0, h1, InOutputRange]

/-- Settles O58: only a TICK's modulator steps write a history, and they write outputs of operators 1. -/
theorem stepKeepsFeedbackHistory : Obligations.StepKeepsFeedbackHistory :=
  step_keeps (fun _ _ hs => hs) exec_keeps_historyInv

/-! ## The global record: timer flags and noise register (R25, R163) -/

/-- What an instruction does to the global record: a register write stores settings and leaves the timer flags, the
counters and the noise register; WR_TCTL writes the timer flags alone; TICK advances the counters; RESET installs
the reset record. -/
inductive GlobChange (s t : State) (i : Instr) : Prop where
  | settings (hw : isWrite i = true)
      (h : t.g =
        { s.g with
          wavesel := t.g.wavesel, t1 := t.g.t1, t2 := t.g.t2, mode := t.g.mode
          amDepth := t.g.amDepth, pmDepth := t.g.pmDepth, rhythm := t.g.rhythm, rkeys := t.g.rkeys })
  | timers (v : Byte) (hi : i = .wrTctl v) (h : t.g = timerControl v s.g)
  | ticked (hi : i = .tick) (h : t.g = (tickAdvance s).g)
  | wasReset (hi : i = .reset) (h : t.g = Glob.reset s.cfg)

theorem step4Output_g (s : State) : (step4Output s).1.g = s.g := (step4Output_sameButHistory s).1

theorem step4Output_cfg (s : State) : (step4Output s).1.cfg = s.cfg :=
  (step4Output_sameButHistory s).2.1

/-- The inversion lemma for the global record. -/
theorem exec_globChange {i : Instr} {s t : State} (h : exec i s = .next t) : GlobChange s t i := by
  cases i with
  | wrTctl v => cases h; exact .timers v rfl rfl
  | wrWs j v => cases h; exact .settings rfl (by split <;> rfl)
  | tick => cases (exec_tick s).symm.trans h; exact .ticked rfl (step4Output_g _)
  | reset => cases h; exact .wasReset rfl rfl
  | _ => cases h; exact .settings rfl rfl

/-- No instruction changes the parameters (R9). -/
theorem exec_cfg {i : Instr} {s t : State} (h : exec i s = .next t) : t.cfg = s.cfg := by
  cases i with
  | wrWs j v => cases h; split <;> rfl
  | tick => cases (exec_tick s).symm.trans h; exact step4Output_cfg _
  | _ => cases h; rfl

theorem tctlMask_and_unused (v : Byte) : v &&& tctlMask &&& 0x9C#8 = 0#8 := by
  rw [BitVec.and_assoc, show tctlMask &&& 0x9C#8 = 0#8 by decide, BitVec.and_zero]

theorem exec_keeps_timerInv (i : Instr) (s t : State) (hs : TimerInv s) (h : exec i s = .next t) :
    TimerInv t := by
  obtain ⟨hstatus, htctl⟩ := hs
  unfold TimerInv
  cases exec_globChange h with
  | settings _ e => rw [e]; exact ⟨hstatus, htctl⟩
  | timers v _ e =>
    rw [e]
    unfold timerControl
    split
    · exact ⟨rfl, htctl⟩
    · exact ⟨hstatus, tctlMask_and_unused v⟩
  | ticked _ e => rw [e, tickAdvance_g]; exact ⟨hstatus, htctl⟩
  | wasReset _ e => rw [e]; exact ⟨rfl, BitVec.zero_and⟩

/-- Settles O59: only WR_TCTL and RESET write the timer flags, and both leave the unused bits clear. -/
theorem stepKeepsTimerFlagsClear : Obligations.StepKeepsTimerFlagsClear :=
  step_keeps (fun _ _ hs => hs) exec_keeps_timerInv

/-- The noise register never shifts out to zero: a set bit 0 brings bit 23 of the mask in as bit 22, and a clear
bit 0 loses nothing (R163). -/
theorem noiseShift_ne_zero {mask : BitVec 24} (hm : mask.getLsbD 23 = true) {n : BitVec 23}
    (hn : n ≠ 0#23) : noiseShift mask n ≠ 0#23 := by
  intro h
  unfold noiseShift at h
  split at h
  · have hbit : ((((n.setWidth 24 ^^^ mask) >>> 1).setWidth 23).getLsbD 22) = true := by
      simp [hm]
    simp [h] at hbit
  · next h0 =>
    have hodd := mt (getLsbD_iff n 0).2 h0
    have hhalf : n.toNat / 2 = 0 := by
      simpa [Nat.shiftRight_eq_div_pow] using congrArg BitVec.toNat h
    exact hn (BitVec.eq_of_toNat_eq (by simp; omega))

theorem exec_keeps_noiseInv (i : Instr) (s t : State) (hs : NoiseInv s) (h : exec i s = .next t) :
    NoiseInv t := by
  obtain ⟨hseed, hmask, hnoise⟩ := hs
  unfold NoiseInv
  rw [exec_cfg h]
  refine ⟨hseed, hmask, ?_⟩
  cases exec_globChange h with
  | settings _ e => rw [e]; exact hnoise
  | timers v _ e => rw [e]; unfold timerControl; split <;> exact hnoise
  | ticked _ e => rw [e, tickAdvance_g]; exact noiseShift_ne_zero hmask hnoise
  | wasReset _ e => rw [e]; exact hseed

/-- Settles O60: TICK shifts the register by `noiseShift_ne_zero`, RESET puts the seed, and nothing else writes
it. -/
theorem stepKeepsNoiseNonzero : Obligations.StepKeepsNoiseNonzero :=
  step_keeps (fun _ _ hs => hs) exec_keeps_noiseInv

end Sys2Proof
end

section
/-! PROOF. What the transcriber makes of a WRITE inside the operand domain (R81, R271), and the derived values of
R32 to R34, R161, R201 and R210 with the shapes of their tables (R258, R262, R263). -/

namespace Sys2Proof

open Sys2Proof.Machine

/-! ## The operand domain (R81, R271) -/

theorem toNat_ofInt_byte {x : Int} (h0 : 0 ≤ x) (h1 : x ≤ 255) : (BitVec.ofInt 8 x).toNat = x.toNat := by
  rw [BitVec.toNat_ofInt]; omega

theorem transcribe_write_of_domain {bank addr data : Int} (hb : 0 ≤ bank) (ha : 0 ≤ addr)
    (ha' : addr ≤ 255) (hd : 0 ≤ data) (hd' : data ≤ 255) :
    transcribe (.write bank addr data) =
      .ok (.write (commandWord (bank != 0) (BitVec.ofInt 8 addr) (BitVec.ofInt 8 data))) := by
  rw [transcribe, if_neg (by omega), if_neg (by omega), if_neg (by omega)]

theorem commandWord_ofInt_toNat {bank addr data : Int} (ha : 0 ≤ addr) (ha' : addr ≤ 255)
    (hd : 0 ≤ data) (hd' : data ≤ 255) :
    (commandWord (bank != 0) (BitVec.ofInt 8 addr) (BitVec.ofInt 8 data)).toNat =
      (if bank = 0 then 0 else 65536) + addr.toNat * 256 + data.toNat := by
  rw [commandWord_toNat, toNat_ofInt_byte ha ha', toNat_ofInt_byte hd hd']
  by_cases hbank : bank = 0 <;> simp [hbank]

end Sys2Proof

namespace Sys2Proof.Machine

/-! ## Values derived from an operator and its channel (R32 to R34) -/

theorem block_lt (c : Chan) : c.blockFnum.toNat / 1024 < 8 := by
  have := c.blockFnum.isLt
  omega

theorem incrOf_eq (c : Chan) (o : Oper) :
    incrOf c o =
      (c.blockFnum.toNat % 1024) * 2 ^ (5 + c.blockFnum.toNat / 1024) * mulTab o.mult := by
  rw [incrOf, fc, Nat.shiftLeft_eq, Nat.mod_eq_of_lt (block_lt c), mulOf]

/-- An increment has at most 27 bits: fnum < 2^10, a shift of at most 12, and a multiple of at most 30. -/
theorem incrOf_lt (c : Chan) (o : Oper) : incrOf c o < 2 ^ 27 := by
  have hfnum : c.blockFnum.toNat % 1024 ≤ 1023 := by omega
  have hblock : 2 ^ (5 + c.blockFnum.toNat / 1024) ≤ 2 ^ 12 :=
    Nat.pow_le_pow_right (by decide) (by have := block_lt c; omega)
  calc incrOf c o
      = (c.blockFnum.toNat % 1024) * 2 ^ (5 + c.blockFnum.toNat / 1024) * mulTab o.mult := incrOf_eq c o
    _ ≤ 1023 * 2 ^ 12 * 30 := Nat.mul_le_mul (Nat.mul_le_mul hfnum hblock) (mulTab_range o.mult).2
    _ < 2 ^ 27 := by decide

theorem ksrv_eq (c : Chan) (o : Oper) :
    ksrv c o = if o.ksr then c.kcode.toNat else c.kcode.toNat / 4 := by
  unfold ksrv
  split <;> simp [Nat.shiftRight_eq_div_pow]

theorem tll_eq (cfg : Config) (c : Chan) (o : Oper) :
    tll cfg c o = 4 * o.tl.toNat + kslTab (c.blockFnum.toNat / 64) / 2 ^ cfg.kslShift[o.ksl.toNat] := by
  simp only [tll, kslBase, kslShiftOf, Nat.shiftRight_eq_div_pow]

/-- The attenuation of step 4 is at most 476 + 511 + 26 (R210). -/
theorem volOf_le (s : State) (i : Slot) : volOf s i ≤ 1013 := by
  have htll := tll_le s.cfg (s.chanAt i) (s.oper i)
  have henv := (s.oper i).vol.isLt
  have ham := lfoAm_le s.g
  unfold volOf
  dsimp only
  split <;> omega

/-! ## The shapes of the tables (R258, R262, R263) -/

/-- The last row of KSL_TAB, block 7 (R258). -/
def kslTopRow : List Nat := [0, 96, 128, 148, 160, 172, 180, 188, 192, 200, 204, 208, 212, 216, 220, 224]

/-- KSL_TAB loses 32 an octave down from its last row, and stops at 0. -/
theorem kslTab_eq {block col : Nat} (hb : block < 8) (hc : col < 16) :
    kslTab (16 * block + col) = kslTopRow.getD col 0 - 32 * (7 - block) := by
  have key : ∀ b : Fin 8, ∀ c : Fin 16,
      kslTab (16 * b + c) = kslTopRow.getD c 0 - 32 * (7 - b) := by decide +kernel
  exact key ⟨block, hb⟩ ⟨col, hc⟩

/-- AM_TAB is a triangle with peak 26. -/
theorem amTab_eq {k : Nat} (hk : k < 210) :
    amTab k =
      if k < 7 then 0 else if k < 107 then 1 + (k - 7) / 4 else if k < 110 then 26
      else 25 - (k - 110) / 4 := by
  have key : ∀ j : Fin 210, amTab j =
      if j.val < 7 then 0 else if j.val < 107 then 1 + (j.val - 7) / 4 else if j.val < 110 then 26
      else 25 - (j.val - 110) / 4 := by decide +kernel
  exact key ⟨k, hk⟩

/-- A triangle over the eight LFO steps with peak `a` and, halfway, `a / 2`. -/
def vibratoTriangle (a : Int) : List Int := [a, a / 2, 0, -(a / 2), -a, -(a / 2), 0, a / 2]

/-- PM_TAB is a triangle whose peak is its row, halved at the shallow depth. -/
theorem pmTab_eq {f k : Nat} (hf : f < 8) (hk : k < 8) (deep : Bool) :
    pmTab f deep k = (vibratoTriangle (if deep then (f : Int) else f / 2)).getD k 0 := by
  have key : ∀ (a : Fin 8) (d : Bool) (j : Fin 8),
      pmTab a d j = (vibratoTriangle (if d then (a.val : Int) else a.val / 2)).getD j 0 := by
    decide +kernel
  exact key ⟨f, hf⟩ deep ⟨k, hk⟩

/-! ## The vibrato offset (R201) -/

theorem lfoStep_eq (g : Glob) : lfoStep g = g.pmCnt.toNat / 1024 := by
  have := g.pmCnt.isLt
  unfold lfoStep
  omega

theorem pmOff_eq (g : Glob) (bf : BitVec 13) :
    pmOff g bf =
      (vibratoTriangle (if g.pmDepth then ((bf.toNat / 128 % 8 : Nat) : Int)
        else ((bf.toNat / 128 % 8 : Nat) : Int) / 2)).getD (g.pmCnt.toNat / 1024) 0 := by
  have hstep : g.pmCnt.toNat / 1024 < 8 := by have := g.pmCnt.isLt; omega
  rw [pmOff, lfoStep_eq, pmTab_eq (Nat.mod_lt _ (by decide)) hstep]

theorem pmOff_range (g : Glob) (bf : BitVec 13) : -7 ≤ pmOff g bf ∧ pmOff g bf ≤ 7 :=
  have ⟨hlow, hhigh, _⟩ := pmTab_range (bf.toNat / 128 % 8) g.pmDepth (lfoStep g)
  ⟨hlow, hhigh⟩

/-- Row 0 of PM_TAB is 0, so an offset needs fnum[9:7] to be set. -/
theorem fnum_ge_of_pmOff_ne_zero {g : Glob} {bf : BitVec 13} (h : pmOff g bf ≠ 0) :
    128 ≤ bf.toNat % 1024 := by
  have ⟨_, _, hzero⟩ := pmTab_range (bf.toNat / 128 % 8) g.pmDepth (lfoStep g)
  have hrow : bf.toNat / 128 % 8 ≠ 0 := fun e => h (hzero e)
  omega

/-- A negative offset stays inside fnum, which is then at least 128. -/
theorem pmOff_neg_keeps_block {g : Glob} {bf : BitVec 13} (h : pmOff g bf < 0) :
    ((bf.toNat : Int) + pmOff g bf) / 1024 = ((bf.toNat / 1024 : Nat) : Int) := by
  have hfnum := fnum_ge_of_pmOff_ne_zero (ne_of_lt h)
  have hlow := (pmOff_range g bf).1
  omega

end Sys2Proof.Machine

namespace Sys2Proof

open Sys2Proof.Machine

/-- Settles O34: each value by its equation, each table by its shape, each range from the tables' bounds. -/
theorem derivedValueAndVibratoRanges : Obligations.DerivedValueAndVibratoRanges := by
  refine ⟨fun cfg c o => ⟨incrOf_eq c o, incrOf_lt c o, ksrv_eq c o, tll_eq cfg c o, tll_le cfg c o⟩,
    fun s i => ⟨rfl, ?_, volOf_le s i⟩, fun _ _ hb hc => kslTab_eq hb hc, fun _ hk => amTab_eq hk,
    pmOff_eq, fun g bf => ⟨(pmOff_range g bf).1, (pmOff_range g bf).2, fnum_ge_of_pmOff_ne_zero,
      pmOff_neg_keeps_block⟩⟩
  exact amTab_le _ (by have := s.g.amCnt.isLt; omega)

/-- Settles O25: the equations of `step`, and the transcriber's word inside the operand domain. -/
theorem stepPerformsTheNextOperation : Obligations.StepPerformsTheNextOperation :=
  ⟨fun _ _ _ _ hp hc => step_of_pending hp hc, fun _ hp => step_of_idle hp,
    fun _ _ _ hb ha ha' hd hd' =>
      ⟨_, transcribe_write_of_domain hb ha ha' hd hd', commandWord_ofInt_toNat ha ha' hd hd'⟩⟩

end Sys2Proof
end

section
/-! PROOF. A register write stores values that its operands alone fix, and a key action repeated on the same bit
finds its work done, so a WRITE issued twice leaves what it leaves once (R66). -/

namespace Sys2Proof.Machine

/-! ## Updates that change nothing when repeated -/

/-- Applying `f` a second time changes nothing. -/
def Idempotent {α : Type} (f : α → α) : Prop := ∀ x, f (f x) = f x

theorem Idempotent.comp {α : Type} {f g : α → α} (hg : Idempotent g) (hf : Idempotent f)
    (hc : Function.Commute f g) : Idempotent fun x => g (f x) := fun x =>
  calc g (f (g (f x)))
      = g (g (f (f x))) := by rw [hc]
    _ = g (f x) := by rw [hg, hf]

theorem modGlob_twice (s : State) {f : Glob → Glob} (hf : Idempotent f) :
    (s.modGlob f).modGlob f = s.modGlob f := by
  simp [State.modGlob, hf s.g]

theorem modOper_twice (s : State) (i : Slot) {f : Oper → Oper} (hf : Idempotent f) :
    (s.modOper i f).modOper i f = s.modOper i f := by
  refine State.ext_reads rfl rfl (fun _ => rfl) (fun j => ?_) rfl rfl
  by_cases h : j = i <;> simp [modOper_oper, h, hf (s.oper i)]

theorem modChan_twice (s : State) (c : Channel) {f : Chan → Chan} (hf : Idempotent f) :
    (s.modChan c f).modChan c f = s.modChan c f := by
  refine State.ext_reads rfl rfl (fun d => ?_) (fun _ => rfl) rfl rfl
  by_cases h : d = c <;> simp [modChan_chan, h, hf (s.chan c)]

/-- Updates of different operators commute. -/
theorem commute_modOper {i j : Slot} (h : i ≠ j) (f g : Oper → Oper) :
    Function.Commute (fun s : State => s.modOper i f) fun s => s.modOper j g := by
  intro s
  refine State.ext_reads rfl rfl (fun _ => rfl) (fun k => ?_) rfl rfl
  by_cases hi : k = i
  · subst hi; simp [modOper_oper, h]
  · simp [modOper_oper, hi, h.symm]

/-! ## Updates of several operators -/

/-- The updates of a list of slots, in order. -/
def modOpers (us : List (Slot × (Oper → Oper))) (s : State) : State :=
  us.foldl (fun s u => s.modOper u.1 u.2) s

theorem commute_modOper_modOpers {i : Slot} (f : Oper → Oper) {us : List (Slot × (Oper → Oper))}
    (h : ∀ u ∈ us, i ≠ u.1) : Function.Commute (fun s : State => s.modOper i f) (modOpers us) := by
  induction us with
  | nil => exact fun _ => rfl
  | cons u us ih =>
    obtain ⟨hu, hus⟩ := List.forall_mem_cons.1 h
    exact (ih hus).comp_right (commute_modOper hu f u.2)

theorem idempotent_modOpers {us : List (Slot × (Oper → Oper))}
    (hd : us.Pairwise fun u w => u.1 ≠ w.1) (hf : ∀ u ∈ us, Idempotent u.2) :
    Idempotent (modOpers us) := by
  induction us with
  | nil => exact fun _ => rfl
  | cons u us ih =>
    obtain ⟨hu, hus⟩ := List.pairwise_cons.1 hd
    obtain ⟨hfu, hfus⟩ := List.forall_mem_cons.1 hf
    exact (ih hus hfus).comp (fun s => modOper_twice s u.1 hfu) (commute_modOper_modOpers u.2 hu)

/-! ## Key actions (R121, R125, R126, R146) -/

/-- A key action on a held latch whose bit already stands as it wants it changes nothing. -/
theorem keyTo_of_done {on : Bool} {b : BitVec 2} {o : Oper} (h : o.key ≠ 0#2)
    (hd : (if on then o.key ||| b else o.key &&& ~~~b) = o.key) : keyTo on b o = o := by
  cases on with
  | true =>
    have hset : o.key ||| b = o.key := hd
    simp [keyTo, keyOn, h, hset]
  | false =>
    have hclear : o.key &&& ~~~b = o.key := hd
    simp [keyTo, keyOff, h, hclear]

/-- After a key action the bit stands as wanted; an operator whose latch is then clear has nothing left to
release. -/
theorem idempotent_keyTo (on : Bool) (b : BitVec 2) : Idempotent (keyTo on b) := by
  intro o
  have hkey := keyTo_key on b o
  by_cases hk : (keyTo on b o).key = 0#2
  · cases on with
    | false => exact keyTo_of_clear false b _ hk
    | true =>
      obtain ⟨ho, hb⟩ := BitVec.or_eq_zero_iff.1 (hkey.symm.trans hk)
      simp [keyTo_of_clear, ho, hb]
  · refine keyTo_of_done hk ?_
    rw [hkey]
    cases on with
    | false => simp [BitVec.and_assoc]
    | true => simp [BitVec.or_assoc]

theorem idempotent_keyChannel (c : Channel) {key : Oper → Oper} (hk : Idempotent key) :
    Idempotent fun s : State => (s.modOper (op1Of c) key).modOper (op2Of c) key :=
  Idempotent.comp (fun s => modOper_twice s _ hk) (fun s => modOper_twice s _ hk)
    (commute_modOper (op1Of_ne_op2Of c c) key key)

theorem rhythmKeys_eq_modOpers (v : Byte) :
    rhythmKeys v = modOpers (rhythmKeyMap.map fun p =>
      (p.1, keyTo (fieldRhythm v && v.getLsbD p.2) rhythmKey)) := rfl

/-- Each entry of the percussion map has a slot of its own. -/
theorem rhythmKeyMap_slots_distinct : rhythmKeyMap.Pairwise fun p q => p.1 ≠ q.1 := by decide

theorem idempotent_rhythmKeys (v : Byte) : Idempotent (rhythmKeys v) := by
  rw [rhythmKeys_eq_modOpers]
  exact idempotent_modOpers (List.pairwise_map.2 rhythmKeyMap_slots_distinct)
    (List.forall_mem_map.2 fun _ _ => idempotent_keyTo _ _)

/-! ## Frequency, timer and waveform writes (R104, R120 to R122, R143) -/

theorem idempotent_setFnumLow (v : Byte) : Idempotent (setFnumLow v) := by
  intro bf
  apply BitVec.eq_of_toNat_eq
  have := v.isLt
  simp only [setFnumLow_toNat]
  omega

theorem idempotent_setBlockFnumHigh (v : Byte) : Idempotent (setBlockFnumHigh v) := by
  intro bf
  apply BitVec.eq_of_toNat_eq
  simp only [setBlockFnumHigh_toNat]
  omega

theorem freqUpdate_of_same (mode : Byte) {nbf : BitVec 13} {c : Chan} (h : nbf = c.blockFnum) :
    freqUpdate mode nbf c = c := if_pos h

/-- A repeated frequency write finds its value held. -/
theorem idempotent_freqUpdate (mode : Byte) {part : BitVec 13 → BitVec 13} (h : Idempotent part) :
    Idempotent fun c : Chan => freqUpdate mode (part c.blockFnum) c := fun c =>
  freqUpdate_of_same mode (by rw [freqUpdate_blockFnum, h])

theorem idempotent_freqWrite (c : Channel) {part : BitVec 13 → BitVec 13} (h : Idempotent part) :
    Idempotent fun s : State => s.modChan c fun ch => freqUpdate s.g.mode (part ch.blockFnum) ch :=
  fun s => modChan_twice s c (idempotent_freqUpdate s.g.mode h)

theorem idempotent_timerControl (v : Byte) : Idempotent (timerControl v) := by
  intro g
  unfold timerControl
  split <;> rfl

/-- WR_WS leaves the latch that lets it store. -/
theorem idempotent_writeWs (i : Slot) (v : Byte) :
    Idempotent fun s : State =>
      if s.g.wavesel then s.modOper i fun o => { o with ws := fieldWs v } else s := by
  intro s
  by_cases h : s.g.wavesel
  · simpa [h] using modOper_twice s i (f := fun o => { o with ws := fieldWs v }) fun _ => rfl
  · simp [h]

end Sys2Proof.Machine

namespace Sys2Proof

open Sys2Proof.Machine

/-- Every WRITE is an idempotent update: of one record, or of several that do not depend on each other. -/
theorem exec_write_idempotent {i : Instr} (hw : isWrite i = true) :
    ∃ f : State → State, Idempotent f ∧ ∀ s, exec i s = .next (f s) := by
  cases i with
  | wrTest | wrT1 | wrT2 | wrMode =>
    refine ⟨_, ?_, fun _ => rfl⟩
    exact fun s => modGlob_twice s fun _ => rfl
  | wrTctl v => exact ⟨_, fun s => modGlob_twice s (idempotent_timerControl v), fun _ => rfl⟩
  | wrAvekm j | wrKsltl j | wrArdr j | wrSlrr j =>
    refine ⟨_, ?_, fun _ => rfl⟩
    exact fun s => modOper_twice s j fun _ => rfl
  | wrWs j v => exact ⟨_, idempotent_writeWs j v, fun _ => rfl⟩
  | wrRhy v =>
    have hfields : Idempotent fun s : State => s.modGlob (rhythmFields v) :=
      fun s => modGlob_twice s fun _ => rfl
    exact ⟨_, (idempotent_rhythmKeys v).comp hfields fun _ => rfl, fun _ => rfl⟩
  | wrFnuml c v => exact ⟨_, idempotent_freqWrite c (idempotent_setFnumLow v), fun _ => rfl⟩
  | wrKbf c v =>
    have hfreq := idempotent_freqWrite c (idempotent_setBlockFnumHigh v)
    have hkeys := idempotent_keyChannel c (idempotent_keyTo (fieldKeyOn v) melodicKey)
    exact ⟨_, hfreq.comp hkeys fun _ => rfl, fun _ => rfl⟩
  | wrFbcon c | wrFbconAlias c =>
    refine ⟨_, ?_, fun _ => rfl⟩
    exact fun s => modChan_twice s c fun _ => rfl
  | tick | reset => cases hw
  | _ => exact ⟨ignoreWrite, fun _ => rfl, fun _ => rfl⟩

/-- Settles O47: a WRITE performs an idempotent update, by `exec_write_idempotent`. -/
theorem everyWriteIsIdempotent : Obligations.EveryWriteIsIdempotent := by
  intro i s hw
  obtain ⟨f, hf, hx⟩ := exec_write_idempotent hw
  exact ⟨f s, hx s, by rw [hx, hf]⟩

end Sys2Proof
end

section
/-! PROOF. The encoder and the decoder are inverse to each other, one register group of R85 after the other (R81 to
R86); a WRITE to another bank (R84); the writes the pseudo-instructions stand for (R89). -/

namespace Sys2Proof

open Sys2Proof.Machine

/-! ## The slot map (R83) -/

theorem slotOf_isSome_iff (off : BitVec 5) :
    (slotOf off).isSome = true ↔ off.toNat / 8 ≤ 2 ∧ off.toNat % 8 ≤ 5 := by
  unfold slotOf
  dsimp only
  split <;> simp [*]

/-- The closed form: row and column of an offset give the channel, and the column's half the operator. -/
theorem slotOf_closedForm {off : BitVec 5} {s : Slot} (h : slotOf off = some s) :
    (chanOf s).val = 3 * (off.toNat / 8) + off.toNat % 8 % 3 ∧
      s.val = 2 * (chanOf s).val + off.toNat % 8 / 3 := by
  unfold slotOf at h
  dsimp only at h
  split at h
  · obtain rfl := Option.some.inj h
    simp only [chanOf]
    omega
  · cases h

/-- Settles O21: OFF_OF in both directions, the closed form, and the printed table by evaluation. -/
theorem offsetMapSelectsEachSlotOnce : Obligations.OffsetMapSelectsEachSlotOnce :=
  ⟨slotOf_offOf, fun _ _ h => (offOf_of_slotOf h).symm,
    fun off => ⟨slotOf_isSome_iff off, fun _ h => slotOf_closedForm h⟩, by decide, by decide⟩

/-! ## Words by bank and group (R81, R82, R84) -/

@[simp] theorem decode_commandWord_otherBank (cfg : Config) (addr v : Byte) :
    decode cfg (.write (commandWord true addr v)) = .ignoredBank addr v := by
  simp [decode, decodeWord]

theorem decode_wordOf (cfg : Config) (g : BitVec 3) (low : BitVec 5) (v : Byte) :
    decode cfg (.write (wordOf g low v)) = decodeAddr cfg (groupAddr g low) v := by
  simp [decode, decodeWord, wordOf]

/-- A word with the bank bit clear is the word of its group bits, low bits and data. -/
theorem wordOf_fields {w : CmdWord} (h : w.getLsbD 16 = false) :
    wordOf ((wordAddr w).extractLsb' 5 3) ((wordAddr w).extractLsb' 0 5) (wordData w) = w := by
  rw [wordOf, groupAddr_fields, ← h, commandWord_fields]

theorem exists_channelLow (low : BitVec 5) : ∃ x c, low = channelLow x c := by
  have h := channelLow_fields (groupAddr 0#3 low)
  rw [groupAddr_low] at h
  exact ⟨_, _, h.symm⟩

/-- The word `w` is the encoding of the instruction, and the instruction is well formed. -/
def Names (cfg : Config) (i : Instr) (w : CmdWord) : Prop :=
  wellFormed cfg i = true ∧ encode i = .write w

/-! ## The global group (R85 rows 1 to 6) -/

theorem decode_global (cfg : Config) (a : BitVec 5) (v : Byte) :
    decode cfg (.write (wordOf 0b000#3 a v)) = decodeGlobal a v := by
  rw [decode_wordOf, decodeAddr, groupAddr_group, groupAddr_low]
  rfl

theorem decodeGlobal_ignored {a : BitVec 5} (v : Byte)
    (h : a ∉ [0x01#5, 0x02#5, 0x03#5, 0x04#5, 0x08#5]) : decodeGlobal a v = .ignoredGlobal a v := by
  simp only [List.mem_cons, List.not_mem_nil, or_false, not_or] at h
  obtain ⟨h1, h2, h3, h4, h8⟩ := h
  rw [decodeGlobal, if_neg h1, if_neg h2, if_neg h3, if_neg h4, if_neg h8]

theorem decodeGlobal_names (cfg : Config) (a : BitVec 5) (v : Byte) :
    Names cfg (decodeGlobal a v) (wordOf 0b000#3 a v) := by
  by_cases h : a ∈ [0x01#5, 0x02#5, 0x03#5, 0x04#5, 0x08#5]
  · simp only [List.mem_cons, List.not_mem_nil, or_false] at h
    rcases h with rfl | rfl | rfl | rfl | rfl <;> exact ⟨rfl, rfl⟩
  · rw [decodeGlobal_ignored v h]
    exact ⟨decide_eq_true h, rfl⟩

/-! ## The operator groups (R85 rows 7 to 12) -/

/-- The address group `g` holds an operator register: an offset that selects a slot is the write `hit` of that slot,
another offset the ignored write `miss`. -/
structure OperatorGroup (g : BitVec 3) (hit : Slot → Byte → Instr)
    (miss : BitVec 5 → Byte → Instr) : Prop where
  decode_word : ∀ cfg off v, decode cfg (.write (wordOf g off v)) = decodeOperator hit miss off v
  names_hit : ∀ cfg s v, Names cfg (hit s v) (wordOf g (offOf s) v)
  names_miss : ∀ cfg off v, slotOf off = none → Names cfg (miss off v) (wordOf g off v)

namespace OperatorGroup

theorem avekm : OperatorGroup 0b001#3 .wrAvekm .ignoredOff20 where
  decode_word _ _ _ := by rw [decode_wordOf, decodeAddr, groupAddr_group, groupAddr_low]; rfl
  names_hit _ _ _ := ⟨rfl, rfl⟩
  names_miss _ _ _ h := ⟨Option.isNone_iff_eq_none.2 h, rfl⟩

theorem ksltl : OperatorGroup 0b010#3 .wrKsltl .ignoredOff40 where
  decode_word _ _ _ := by rw [decode_wordOf, decodeAddr, groupAddr_group, groupAddr_low]; rfl
  names_hit _ _ _ := ⟨rfl, rfl⟩
  names_miss _ _ _ h := ⟨Option.isNone_iff_eq_none.2 h, rfl⟩

theorem ardr : OperatorGroup 0b011#3 .wrArdr .ignoredOff60 where
  decode_word _ _ _ := by rw [decode_wordOf, decodeAddr, groupAddr_group, groupAddr_low]; rfl
  names_hit _ _ _ := ⟨rfl, rfl⟩
  names_miss _ _ _ h := ⟨Option.isNone_iff_eq_none.2 h, rfl⟩

theorem slrr : OperatorGroup 0b100#3 .wrSlrr .ignoredOff80 where
  decode_word _ _ _ := by rw [decode_wordOf, decodeAddr, groupAddr_group, groupAddr_low]; rfl
  names_hit _ _ _ := ⟨rfl, rfl⟩
  names_miss _ _ _ h := ⟨Option.isNone_iff_eq_none.2 h, rfl⟩

theorem ws : OperatorGroup 0b111#3 .wrWs .ignoredOffE0 where
  decode_word _ _ _ := by rw [decode_wordOf, decodeAddr, groupAddr_group, groupAddr_low]; rfl
  names_hit _ _ _ := ⟨rfl, rfl⟩
  names_miss _ _ _ h := ⟨Option.isNone_iff_eq_none.2 h, rfl⟩

variable {g : BitVec 3} {hit : Slot → Byte → Instr} {miss : BitVec 5 → Byte → Instr}

theorem decode_of_slotOf (hg : OperatorGroup g hit miss) (cfg : Config) {off : BitVec 5} {s : Slot}
    (v : Byte) (h : slotOf off = some s) : decode cfg (.write (wordOf g off v)) = hit s v := by
  rw [hg.decode_word, decodeOperator, h]

theorem decode_hit (hg : OperatorGroup g hit miss) (cfg : Config) (s : Slot) (v : Byte) :
    decode cfg (.write (wordOf g (offOf s) v)) = hit s v :=
  hg.decode_of_slotOf cfg v (slotOf_offOf s)

theorem decode_miss (hg : OperatorGroup g hit miss) (cfg : Config) {off : BitVec 5} (v : Byte)
    (h : slotOf off = none) : decode cfg (.write (wordOf g off v)) = miss off v := by
  rw [hg.decode_word, decodeOperator, h]

theorem decode_names (hg : OperatorGroup g hit miss) (cfg : Config) (off : BitVec 5) (v : Byte) :
    Names cfg (decode cfg (.write (wordOf g off v))) (wordOf g off v) := by
  cases h : slotOf off with
  | some s =>
    rw [hg.decode_of_slotOf cfg v h, ← offOf_of_slotOf h]
    exact hg.names_hit cfg s v
  | none =>
    rw [hg.decode_miss cfg v h]
    exact hg.names_miss cfg off v h

end OperatorGroup

/-! ## The channel groups (R85 rows 13 to 20) -/

theorem decode_chAb (cfg : Config) (x : Bool) (c : BitVec 4) (v : Byte) :
    decode cfg (.write (wordOf 0b101#3 (channelLow x c) v)) = decodeChAb x c v := by
  rw [decode_wordOf, decodeAddr, groupAddr_group, groupAddr_x, groupAddr_channel]
  rfl

theorem decode_chCd (cfg : Config) (x : Bool) (c : BitVec 4) (v : Byte) :
    decode cfg (.write (wordOf 0b110#3 (channelLow x c) v)) = decodeChCd cfg x c v := by
  rw [decode_wordOf, decodeAddr, groupAddr_group, groupAddr_x, groupAddr_channel]
  rfl

/-- 0xBD has the low bits of channel field 13, which is no channel (R85 row 13). -/
theorem rhythmLow_eq : 0x1D#5 = channelLow true 0xD#4 := by decide

theorem decodeChAb_rhythm (v : Byte) : decodeChAb true 0xD#4 v = .wrRhy v := rfl

theorem decodeChAb_of_channelOf (x : Bool) {c : BitVec 4} {ch : Channel} (v : Byte)
    (h : channelOf c = some ch) :
    decodeChAb x c v = if x then .wrKbf ch v else .wrFnuml ch v := by
  have hnot : ¬ (x = true ∧ c = 0xD#4) := by
    rintro ⟨-, rfl⟩
    cases h
  rw [decodeChAb, if_neg hnot, h]

theorem decodeChAb_ignored {x : Bool} {c : BitVec 4} (v : Byte) (h : channelOf c = none)
    (hr : ¬ (x = true ∧ c = 0xD#4)) : decodeChAb x c v = .ignoredChAb x c v := by
  rw [decodeChAb, if_neg hr, h]

theorem ignoredChAb_wellFormed_iff (cfg : Config) (x : Bool) (c : BitVec 4) (v : Byte) :
    wellFormed cfg (.ignoredChAb x c v) = true ↔
      channelOf c = none ∧ ¬ (x = true ∧ c = 0xD#4) := by
  cases x <;> simp [wellFormed, channelOf_eq_none]

theorem decodeChAb_names (cfg : Config) (x : Bool) (c : BitVec 4) (v : Byte) :
    Names cfg (decodeChAb x c v) (wordOf 0b101#3 (channelLow x c) v) := by
  cases h : channelOf c with
  | some ch =>
    rw [decodeChAb_of_channelOf x v h, ← ofNat_of_channelOf h]
    cases x <;> exact ⟨rfl, rfl⟩
  | none =>
    by_cases hr : x = true ∧ c = 0xD#4
    · obtain ⟨rfl, rfl⟩ := hr
      exact ⟨rfl, rfl⟩
    · rw [decodeChAb_ignored v h hr]
      exact ⟨(ignoredChAb_wellFormed_iff cfg x c v).2 ⟨h, hr⟩, rfl⟩

theorem decodeChCd_fbcon (cfg : Config) {c : BitVec 4} {ch : Channel} (v : Byte)
    (h : channelOf c = some ch) : decodeChCd cfg false c v = .wrFbcon ch v := by
  simp [decodeChCd, h]

theorem decodeChCd_alias {cfg : Config} {c : BitVec 4} {ch : Channel} (v : Byte)
    (h : channelOf c = some ch) (ha : cfg.aliasD0 = true) :
    decodeChCd cfg true c v = .wrFbconAlias ch v := by
  simp [decodeChCd, h, ha]

/-- R85 rows 19 and 20: what the group ignores. -/
theorem ignoredChCd_wellFormed_iff (cfg : Config) (x : Bool) (c : BitVec 4) (v : Byte) :
    wellFormed cfg (.ignoredChCd x c v) = true ↔
      channelOf c = none ∨ x = true ∧ cfg.aliasD0 = false := by
  simp [wellFormed, channelOf_eq_none]

theorem decodeChCd_ignored {cfg : Config} {x : Bool} {c : BitVec 4} (v : Byte)
    (h : channelOf c = none ∨ x = true ∧ cfg.aliasD0 = false) :
    decodeChCd cfg x c v = .ignoredChCd x c v := by
  rcases h with h | ⟨rfl, ha⟩
  · rw [decodeChCd, h]
  · cases h : channelOf c <;> simp [decodeChCd, h, ha]

theorem decodeChCd_names (cfg : Config) (x : Bool) (c : BitVec 4) (v : Byte) :
    Names cfg (decodeChCd cfg x c v) (wordOf 0b110#3 (channelLow x c) v) := by
  by_cases hi : channelOf c = none ∨ x = true ∧ cfg.aliasD0 = false
  · rw [decodeChCd_ignored v hi]
    exact ⟨(ignoredChCd_wellFormed_iff cfg x c v).2 hi, rfl⟩
  · obtain ⟨hc, hx⟩ := not_or.1 hi
    obtain ⟨ch, h⟩ := Option.ne_none_iff_exists'.1 hc
    cases x with
    | false =>
      rw [decodeChCd_fbcon cfg v h, ← ofNat_of_channelOf h]
      exact ⟨rfl, rfl⟩
    | true =>
      have ha : cfg.aliasD0 = true := by simpa using hx
      rw [decodeChCd_alias v h ha, ← ofNat_of_channelOf h]
      exact ⟨ha, rfl⟩

/-! ## The two directions (R85, R86) -/

/-- Settles O22: every instruction's word lies in its row's group, and the group decodes it to that row. -/
theorem decodeEncodeRoundTrip : Obligations.DecodeEncodeRoundTrip := by
  intro cfg i h
  cases i with
  | wrTest | wrT1 | wrT2 | wrTctl | wrMode => exact decode_global cfg _ _
  | ignoredGlobal a v =>
    exact (decode_global cfg a v).trans (decodeGlobal_ignored v (of_decide_eq_true h))
  | wrAvekm s v => exact OperatorGroup.avekm.decode_hit cfg s v
  | wrKsltl s v => exact OperatorGroup.ksltl.decode_hit cfg s v
  | wrArdr s v => exact OperatorGroup.ardr.decode_hit cfg s v
  | wrSlrr s v => exact OperatorGroup.slrr.decode_hit cfg s v
  | wrWs s v => exact OperatorGroup.ws.decode_hit cfg s v
  | ignoredOff20 _ v => exact OperatorGroup.avekm.decode_miss cfg v (Option.isNone_iff_eq_none.1 h)
  | ignoredOff40 _ v => exact OperatorGroup.ksltl.decode_miss cfg v (Option.isNone_iff_eq_none.1 h)
  | ignoredOff60 _ v => exact OperatorGroup.ardr.decode_miss cfg v (Option.isNone_iff_eq_none.1 h)
  | ignoredOff80 _ v => exact OperatorGroup.slrr.decode_miss cfg v (Option.isNone_iff_eq_none.1 h)
  | ignoredOffE0 _ v => exact OperatorGroup.ws.decode_miss cfg v (Option.isNone_iff_eq_none.1 h)
  | wrRhy v => 
    rw [encode, rhythmLow_eq, decode_chAb, decodeChAb_rhythm]
  | wrFnuml c v | wrKbf c v =>
    exact (decode_chAb cfg _ _ v).trans (decodeChAb_of_channelOf _ v (channelOf_ofNat c))
  | ignoredChAb x c v =>
    obtain ⟨hc, hr⟩ := (ignoredChAb_wellFormed_iff cfg x c v).1 h
    exact (decode_chAb cfg x c v).trans (decodeChAb_ignored v hc hr)
  | wrFbcon c v =>
    exact (decode_chCd cfg false _ v).trans (decodeChCd_fbcon cfg v (channelOf_ofNat c))
  | wrFbconAlias c v =>
    exact (decode_chCd cfg true _ v).trans (decodeChCd_alias v (channelOf_ofNat c) h)
  | ignoredChCd x c v =>
    exact (decode_chCd cfg x c v).trans
      (decodeChCd_ignored v ((ignoredChCd_wellFormed_iff cfg x c v).1 h))
  | ignoredBank a v => exact decode_commandWord_otherBank cfg a v
  | tick | reset => rfl

/-- Every word with the bank bit clear decodes to an instruction it names, group by group. -/
theorem decode_wordOf_names (cfg : Config) (g : BitVec 3) (low : BitVec 5) (v : Byte) :
    Names cfg (decode cfg (.write (wordOf g low v))) (wordOf g low v) := by
  have groups : ∀ g : BitVec 3, g = 0b000#3 ∨ g = 0b001#3 ∨ g = 0b010#3 ∨ g = 0b011#3 ∨
      g = 0b100#3 ∨ g = 0b101#3 ∨ g = 0b110#3 ∨ g = 0b111#3 := by decide
  obtain ⟨x, c, hlow⟩ := exists_channelLow low
  rcases groups g with rfl | rfl | rfl | rfl | rfl | rfl | rfl | rfl
  · rw [decode_global]
    exact decodeGlobal_names cfg low v
  · exact OperatorGroup.avekm.decode_names cfg low v
  · exact OperatorGroup.ksltl.decode_names cfg low v
  · exact OperatorGroup.ardr.decode_names cfg low v
  · exact OperatorGroup.slrr.decode_names cfg low v
  · rw [hlow, decode_chAb]
    exact decodeChAb_names cfg x c v
  · rw [hlow, decode_chCd]
    exact decodeChCd_names cfg x c v
  · exact OperatorGroup.ws.decode_names cfg low v

/-- Settles O23: by the bank bit; bank 0 by `decode_wordOf_names`. -/
theorem everyCommandWordHasOneMeaning : Obligations.EveryCommandWordHasOneMeaning := by
  intro cfg w
  cases hb : w.getLsbD 16 with
  | true =>
    rw [← commandWord_fields w, hb, decode_commandWord_otherBank]
    exact ⟨rfl, rfl⟩
  | false =>
    rw [← wordOf_fields hb]
    exact decode_wordOf_names cfg _ _ _

/-- Settles O24: the decoder evaluated on eleven words. -/
theorem sampleWordsDecode : Obligations.SampleWordsDecode := by
  unfold Obligations.SampleWordsDecode
  decide

/-! ## Another bank (R84) -/

/-- Settles O19: such a WRITE has its bank bit set, so it decodes to an ignored write. -/
theorem otherBankWriteHasNoEffect : Obligations.OtherBankWriteHasNoEffect := by
  intro s bank addr data rest hb ha ha' hd hd' hp
  have hbank : (bank != 0) = true := by simpa using hb.ne'
  rw [step_of_pending hp (transcribe_write_of_domain hb.le ha ha' hd hd'), hbank,
    decode_commandWord_otherBank]
  rfl

/-! ## The pseudo-instructions (R89) -/

/-- What the transcriber and the decoder make of a line's operations. -/
def instrsOf (cfg : Config) (l : Line) : List (Except OperandError Instr) :=
  (expandLine l).map fun op => (transcribe op).map (decode cfg)

theorem transcribe_writeAt {base low n : Nat} {g : BitVec 3} {l : BitVec 5} {v : Byte}
    (ha : base + low = (groupAddr g l).toNat) (hd : n = v.toNat) :
    transcribe (writeAt base low n) = .ok (.write (wordOf g l v)) := by
  have haddr := (groupAddr g l).isLt
  have hdata := v.isLt
  rw [writeAt, transcribe_write_of_domain (by omega) (by omega) (by omega) (by omega) (by omega),
    BitVec.ofInt_natCast, BitVec.ofInt_natCast, ha, hd, BitVec.ofNat_toNat, BitVec.ofNat_toNat,
    BitVec.setWidth_eq, BitVec.setWidth_eq]
  rfl

/-- A write whose address and data are those of an instruction's word is that instruction. -/
theorem instr_writeAt {cfg : Config} {base low n : Nat} {g : BitVec 3} {l : BitVec 5} {v : Byte}
    {i : Instr} (ha : base + low = (groupAddr g l).toNat) (hd : n = v.toNat)
    (hi : Names cfg i (wordOf g l v)) :
    (transcribe (writeAt base low n)).map (decode cfg) = .ok i := by
  obtain ⟨hwf, hword⟩ := hi
  rw [transcribe_writeAt ha hd, ← hword]
  exact congrArg Except.ok (decodeEncodeRoundTrip cfg i hwf)

theorem OperatorGroup.instr_hit {g : BitVec 3} {hit : Slot → Byte → Instr}
    {miss : BitVec 5 → Byte → Instr} (hg : OperatorGroup g hit miss) (cfg : Config) {base : Nat}
    (hbase : base = g.toNat * 32) (s : Slot) (v : Byte) :
    (transcribe (writeAt base (offOf s).toNat v.toNat)).map (decode cfg) = .ok (hit s v) :=
  instr_writeAt (by rw [groupAddr_toNat, hbase]) rfl (hg.names_hit cfg s v)

theorem channelAddr_toNat (g : BitVec 3) (x : Bool) (c : Channel) :
    (groupAddr g (channelLow x (BitVec.ofNat 4 c.val))).toNat =
      g.toNat * 32 + x.toNat * 16 + c.val := by
  rw [groupAddr_toNat, channelLow_toNat, BitVec.toNat_ofNat]
  omega

theorem instr_wrFnuml (cfg : Config) (c : Channel) {n : Nat} {v : Byte} (hd : n = v.toNat) :
    (transcribe (writeAt 0xA0 c.val n)).map (decode cfg) = .ok (.wrFnuml c v) :=
  instr_writeAt (channelAddr_toNat 0b101#3 false c).symm hd ⟨rfl, rfl⟩

theorem instr_wrKbf (cfg : Config) (c : Channel) {n : Nat} {v : Byte} (hd : n = v.toNat) :
    (transcribe (writeAt 0xB0 c.val n)).map (decode cfg) = .ok (.wrKbf c v) :=
  instr_writeAt (channelAddr_toNat 0b101#3 true c).symm hd ⟨rfl, rfl⟩

theorem instr_wrFbcon (cfg : Config) (c : Channel) {n : Nat} {v : Byte} (hd : n = v.toNat) :
    (transcribe (writeAt 0xC0 c.val n)).map (decode cfg) = .ok (.wrFbcon c v) :=
  instr_writeAt (channelAddr_toNat 0b110#3 false c).symm hd ⟨rfl, rfl⟩

/-! ### The data bytes as sums -/

theorem toNat_ofNat_byte {n : Nat} (h : n < 256) : (BitVec.ofNat 8 n).toNat = n := Nat.mod_eq_of_lt h

theorem keyByte_eq (blk : BitVec 3) (fn : BitVec 10) :
    keyByte blk fn = 4 * blk.toNat + fn.toNat / 256 := by
  have hfn : fn.toNat / 256 < 2 ^ 2 := by omega
  rw [keyByte, ← Nat.shiftLeft_add_eq_or_of_lt hfn, Nat.shiftLeft_eq, Nat.mul_comm]

/-- KEY-ON, bit 5, stands above the block and fnum bits. -/
theorem keyOn_or_keyByte (blk : BitVec 3) (fn : BitVec 10) :
    0x20 ||| keyByte blk fn = 0x20 + 4 * blk.toNat + fn.toNat / 256 := by
  have hlow : keyByte blk fn < 2 ^ 5 := by rw [keyByte_eq]; omega
  calc 0x20 ||| keyByte blk fn
      = 2 ^ 5 * 1 + keyByte blk fn := (Nat.two_pow_add_eq_or_of_lt hlow 1).symm
    _ = 0x20 + 4 * blk.toNat + fn.toNat / 256 := by rw [keyByte_eq]; omega

theorem fb_or_con (fb : BitVec 3) (con : Bool) :
    fb.toNat <<< 1 ||| con.toNat = 2 * fb.toNat + con.toNat := by
  have hcon : con.toNat < 2 ^ 1 := con.toNat_lt
  rw [← Nat.shiftLeft_add_eq_or_of_lt hcon, Nat.shiftLeft_eq, Nat.mul_comm]

/-! ### The expansions -/

section Expansions
variable (cfg : Config) (c : Channel) (i : Slot) (blk : BitVec 3) (fn : BitVec 10)

theorem instrsOf_keyOn :
    instrsOf cfg (.keyOn c blk fn) =
      [.ok (.wrFnuml c (fn.setWidth 8)),
        .ok (.wrKbf c (BitVec.ofNat 8 (0x20 + 4 * blk.toNat + fn.toNat / 256)))] := by
  have hlow : fn.toNat % 256 = (fn.setWidth 8).toNat := (BitVec.toNat_setWidth 8 fn).symm
  have hhigh := (keyOn_or_keyByte blk fn).trans (toNat_ofNat_byte (by omega)).symm
  simp only [instrsOf, expandLine, List.map_cons, List.map_nil, instr_wrFnuml cfg c hlow,
    instr_wrKbf cfg c hhigh]

theorem instrsOf_keyOff :
    instrsOf cfg (.keyOff c blk fn) =
      [.ok (.wrKbf c (BitVec.ofNat 8 (4 * blk.toNat + fn.toNat / 256)))] := by
  have hhigh := (keyByte_eq blk fn).trans (toNat_ofNat_byte (by omega)).symm
  simp only [instrsOf, expandLine, List.map_cons, List.map_nil, instr_wrKbf cfg c hhigh]

theorem instrsOf_opSet (a b d e : Byte) :
    instrsOf cfg (.opSet i a.toNat b.toNat d.toNat e.toNat) =
      [.ok (.wrAvekm i a), .ok (.wrKsltl i b), .ok (.wrArdr i d), .ok (.wrSlrr i e)] := by
  simp only [instrsOf, expandLine, List.map_cons, List.map_nil,
    OperatorGroup.avekm.instr_hit cfg (base := 0x20) rfl,
    OperatorGroup.ksltl.instr_hit cfg (base := 0x40) rfl,
    OperatorGroup.ardr.instr_hit cfg (base := 0x60) rfl,
    OperatorGroup.slrr.instr_hit cfg (base := 0x80) rfl]

theorem instrsOf_wave (w : Byte) :
    instrsOf cfg (.wave i w.toNat) = [.ok (.wrTest 0x20#8), .ok (.wrWs i w)] := by
  have htest : (transcribe (writeAt 0x01 0 0x20)).map (decode cfg) = .ok (.wrTest 0x20#8) :=
    instr_writeAt (g := 0b000#3) (l := 0x01#5) rfl rfl ⟨rfl, rfl⟩
  simp only [instrsOf, expandLine, List.map_cons, List.map_nil, htest,
    OperatorGroup.ws.instr_hit cfg (base := 0xE0) rfl]

theorem instrsOf_chCfg (fb : BitVec 3) (con : Bool) :
    instrsOf cfg (.chCfg c fb.toNat con.toNat) =
      [.ok (.wrFbcon c (BitVec.ofNat 8 (2 * fb.toNat + con.toNat)))] := by
  have hcon := con.toNat_lt
  have hdata := (fb_or_con fb con).trans (toNat_ofNat_byte (by omega)).symm
  simp only [instrsOf, expandLine, List.map_cons, List.map_nil, instr_wrFbcon cfg c hdata]

theorem instrsOf_rhy (v : Byte) : instrsOf cfg (.rhy v.toNat) = [.ok (.wrRhy v)] := by
  have hrhy : (transcribe (writeAt 0xBD 0 v.toNat)).map (decode cfg) = .ok (.wrRhy v) :=
    instr_writeAt (g := 0b101#3) (l := 0x1D#5) rfl rfl ⟨rfl, rfl⟩
  simp only [instrsOf, expandLine, List.map_cons, List.map_nil, hrhy]

end Expansions

/-- Settles O27: each expansion's writes are read back one by one. -/
theorem pseudoInstructionsExpandAsListed : Obligations.PseudoInstructionsExpandAsListed :=
  fun cfg c i blk fn a b d e w fb con =>
    ⟨instrsOf_keyOn cfg c blk fn, instrsOf_keyOff cfg c blk fn, instrsOf_opSet cfg i a b d e,
      instrsOf_wave cfg i w, instrsOf_chCfg cfg c fb con, instrsOf_rhy cfg a⟩

end Sys2Proof
end

section
/-! PROOF. The operator parameter writes: what each stores in its slot and what it leaves alone, and the derived
values and rates that follow from the bytes (R100 to R104 with R182, R256 and R259 to R261). -/

namespace Sys2Proof

open Sys2Proof.Machine

/-! ## The frame of an operator write -/

/-- An update of one operator leaves every other record and the host side. -/
theorem modOper_frame (s : State) (i : Slot) (f : Oper → Oper) :
    SameOtherOpers i s (s.modOper i f) ∧ (s.modOper i f).g = s.g ∧ (s.modOper i f).ch = s.ch ∧
      SameHostSide s (s.modOper i f) :=
  ⟨fun _ h => modOper_oper_ne s i f h, rfl, rfl, rfl, rfl, rfl⟩

/-! ## Multiplier, total level and sustain level (R256, R257, R259) -/

/-- MUL_TAB is twice the multiple, with 1 for mult 0 and pairs of equal entries from 10 on (R256). -/
theorem mulTab_eq (m : BitVec 4) :
    mulTab m =
      if m.toNat = 0 then 1
      else if m.toNat ≤ 10 then 2 * m.toNat
      else if m.toNat = 11 then 20
      else if m.toNat ≤ 13 then 24
      else 30 := by
  revert m
  decide

theorem slTab_eq (sl : BitVec 4) : slTab sl = if sl.toNat = 15 then 496 else 16 * sl.toNat := by
  have h : sl = 15#4 ↔ sl.toNat = 15 := BitVec.toNat_inj.symm
  simp only [slTab, h]

/-- The total level from the byte that WR_KSLTL stores (R101). -/
theorem tll_of_fields {o : Oper} {v : Byte} (hksl : o.ksl = fieldKsl v) (htl : o.tl = fieldTl v)
    (cfg : Config) (c : Chan) :
    tll cfg c o =
      4 * (v.toNat % 64) +
        kslBase c >>> cfg.kslShift[v.toNat / 64]'(by have := v.isLt; omega) := by
  simp only [tll, kslShiftOf, hksl, htl, fieldKsl_toNat, fieldTl_toNat]

/-! ## The two ends of the rate scale (R182, R260, R261) -/

/-- With shift 0 a step is due at every value of the counter. -/
theorem stepDue_of_shift_zero (n : BitVec 32) {c : Chan} {o : Oper} {p : EgPhase} {row : Nat}
    (h : egRate c o p = some ⟨0, row⟩) :
    stepDue n c o p = some (egInc row (n.toNat % 8)) := by
  simp [stepDue, h, Nat.mod_one]

theorem egInc_row14 (k : Nat) : egInc 14 (k % 8) = 0 := by
  have key : ∀ j : Fin 8, egInc 14 j = 0 := by decide
  exact key ⟨k % 8, Nat.mod_lt k (by decide)⟩

theorem egInc_row13 (k : Nat) : egInc 13 (k % 8) = 8 := by
  have key : ∀ j : Fin 8, egInc 13 j = 8 := by decide
  exact key ⟨k % 8, Nat.mod_lt k (by decide)⟩

/-- A zero rate has an index of at most 15, whatever KSR is: shift 0 and the row of zeros. -/
theorem egRate_of_rate_zero {o : Oper} {p : EgPhase} (h : rateField o p = some 0#4) (c : Chan) :
    egRate c o p = some ⟨0, 14⟩ := by
  have hk := ksrv_lt c o
  have hidx : rateIndex 0#4 (ksrv c o) = ksrv c o := Nat.zero_add _
  have hslow : ¬ (p = .att ∧ 78 ≤ ksrv c o) := by omega
  have hshift : rateShift (ksrv c o) = 0 := if_neg (by omega)
  have hrow : rateRow (ksrv c o) = 14 := if_pos (by omega)
  simp only [egRate, h, hidx, if_neg hslow, hshift, hrow]

/-- A zero rate never advances its phase. -/
theorem stepDue_of_rate_zero (n : BitVec 32) (c : Chan) {o : Oper} {p : EgPhase}
    (h : rateField o p = some 0#4) : stepDue n c o p = some 0 := by
  rw [stepDue_of_shift_zero n (egRate_of_rate_zero h c), egInc_row14]

/-- An attack of index 78 or more is the instant one. -/
theorem egRate_of_instant_attack {c : Chan} {o : Oper} (h : 78 ≤ rateIndex o.ar (ksrv c o)) :
    egRate c o .att = some ⟨0, 13⟩ := by
  simp only [egRate, rateField, h, and_self, if_true]

theorem stepDue_of_instant_attack (n : BitVec 32) {c : Chan} {o : Oper}
    (h : 78 ≤ rateIndex o.ar (ksrv c o)) : stepDue n c o .att = some 8 := by
  rw [stepDue_of_shift_zero n (egRate_of_instant_attack h), egInc_row13]

/-- AR 15 has the index 76 + KSRV. -/
theorem rateIndex_ge_of_ar_max {c : Chan} {o : Oper} (har : o.ar = 15#4) (hk : 2 ≤ ksrv c o) :
    78 ≤ rateIndex o.ar (ksrv c o) := by
  rw [har]
  exact Nat.add_le_add_left hk 76

/-! ## The writes (R100 to R104) -/

/-- Settles O7: the frame of an operator write, and MUL by the closed form of its table. -/
theorem wrAvekmWritesItsFields : Obligations.WrAvekmWritesItsFields := by
  intro i v s
  refine ⟨_, rfl, modOper_oper_self .., ?_, modOper_frame ..⟩
  simp only [modOper_oper_self, mulOf, mulTab_eq, fieldMult_toNat]

/-- Settles O8: the frame of an operator write, and the total level by `tll_of_fields`. -/
theorem wrKsltlWritesItsFields : Obligations.WrKsltlWritesItsFields := by
  intro i v s
  refine ⟨_, rfl, modOper_oper_self .., ?_, modOper_frame ..⟩
  rw [modOper_oper_self]
  exact tll_of_fields rfl rfl s.cfg (s.chanAt i)

/-- Settles O9: the frame of an operator write, and the two ends of the rate scale. -/
theorem wrArdrWritesItsFields : Obligations.WrArdrWritesItsFields := by
  intro i v s
  obtain ⟨hothers, hg, hch, hhost⟩ :=
    modOper_frame s i fun o => { o with ar := fieldAr v, dr := fieldDr v }
  refine ⟨_, rfl, modOper_oper_self .., hothers, hg, hch, hhost, fun n c => ?_⟩
  rw [modOper_oper_self]
  refine ⟨fun har => ?_, fun hdr => ?_, fun har hk => ?_⟩
  · have hzero : fieldAr v = 0#4 := BitVec.eq_of_toNat_eq ((fieldAr_toNat v).trans har)
    exact stepDue_of_rate_zero n c (congrArg some hzero)
  · have hzero : fieldDr v = 0#4 := BitVec.eq_of_toNat_eq ((fieldDr_toNat v).trans hdr)
    exact stepDue_of_rate_zero n c (congrArg some hzero)
  · have hmax : fieldAr v = 15#4 := BitVec.eq_of_toNat_eq ((fieldAr_toNat v).trans har)
    exact stepDue_of_instant_attack n (rateIndex_ge_of_ar_max hmax hk)

/-- Settles O10: the frame of an operator write, and the sustain level by its table. -/
theorem wrSlrrWritesItsFields : Obligations.WrSlrrWritesItsFields := by
  intro i v s
  refine ⟨_, rfl, modOper_oper_self .., ?_, modOper_frame ..⟩
  simp only [modOper_oper_self, slv, slTab_eq, fieldSl_toNat]

theorem exec_wrWs_of_gate_clear {s : State} (h : s.g.wavesel = false) (i : Slot) (v : Byte) :
    exec (.wrWs i v) s = .next s := by
  simp [exec, execWrWs, h]

theorem exec_wrWs_of_gate_set {s : State} (h : s.g.wavesel = true) (i : Slot) (v : Byte) :
    exec (.wrWs i v) s = .next (s.modOper i fun o => { o with ws := fieldWs v }) := by
  simp [exec, execWrWs, h]

/-- Settles O11: by the gate; set, the frame of an operator write. -/
theorem wrWsIsGatedByWavesel : Obligations.WrWsIsGatedByWavesel := by
  intro i v s
  cases h : s.g.wavesel with
  | false => exact ⟨s, exec_wrWs_of_gate_clear h i v, fun _ => rfl, nofun⟩
  | true =>
    exact ⟨_, exec_wrWs_of_gate_set h i v, nofun, fun _ => ⟨modOper_oper_self .., modOper_frame ..⟩⟩

end Sys2Proof
end

section
/-! PROOF. The key actions and FREQ_UPDATE case by case, and the channel register writes built from them: what each
stores and what it leaves alone (R120 to R122, R124 to R126). -/

namespace Sys2Proof.Machine

/-! ## Key actions (R125, R126) -/

section KeyActions
variable (b : BitVec 2) {o : Oper}

theorem keyOn_of_clear (h : o.key = 0#2) :
    keyOn b o = { o with cnt := 0#32, eg := .att, key := b } :=
  keyTo_of_clear true b o h

theorem keyOn_of_held (h : o.key ≠ 0#2) : keyOn b o = { o with key := o.key ||| b } := by
  simp only [keyOn, if_neg h]

theorem keyOff_of_clear (h : o.key = 0#2) : keyOff b o = o := if_pos h

/-- While the other key source holds the operator, a key-off clears its bit and nothing else. -/
theorem keyOff_of_still_held (h : o.key &&& ~~~b ≠ 0#2) :
    keyOff b o = { o with key := o.key &&& ~~~b } := by
  have hheld : o.key ≠ 0#2 := fun h0 => h (by rw [h0, BitVec.zero_and])
  have hstays : ¬ (o.key &&& ~~~b = 0#2 ∧ egRank .rel < egRank o.eg) := fun hr => h hr.1
  rw [keyOff, if_neg hheld]
  exact if_neg hstays

/-- The key-off that clears the latch releases the operator: the phases above REL fall to REL. -/
theorem keyOff_of_last_bit (hheld : o.key ≠ 0#2) (hlast : o.key &&& ~~~b = 0#2) :
    keyOff b o =
      { o with
        key := 0#2
        eg := if egRank .rel < egRank o.eg then .rel else o.eg } := by
  by_cases hrank : egRank .rel < egRank o.eg <;> simp [keyOff, hheld, hlast, hrank]

end KeyActions

/-! ## FREQ_UPDATE (R122) -/

theorem freqUpdate_of_change (mode : Byte) {nbf : BitVec 13} {c : Chan} (h : nbf ≠ c.blockFnum) :
    freqUpdate mode nbf c = { c with blockFnum := nbf, kcode := keyCode mode nbf } := if_neg h

/-! ## Updates of a channel and of its two slots -/

/-- An update of one channel leaves every other record and the host side. -/
theorem modChan_frame (s : State) (c : Channel) (f : Chan → Chan) :
    SameOtherChans c s (s.modChan c f) ∧ (s.modChan c f).op = s.op ∧ (s.modChan c f).g = s.g ∧
      SameHostSide s (s.modChan c f) :=
  ⟨fun _ h => modChan_chan_ne s c f h, rfl, rfl, rfl, rfl, rfl⟩

theorem modChan_of_fixed {s : State} {c : Channel} {f : Chan → Chan} (h : f (s.chan c) = s.chan c) :
    s.modChan c f = s := by
  refine State.ext_reads rfl rfl (fun d => ?_) (fun _ => rfl) rfl rfl
  rw [modChan_chan, h]
  split
  · next hd => rw [hd]
  · rfl

/-- One update of both slots of a channel reaches exactly the slots of that channel (R12). -/
theorem modBothSlots_oper (s : State) (c : Channel) (f : Oper → Oper) (i : Slot) :
    ((s.modOper (op1Of c) f).modOper (op2Of c) f).oper i =
      if chanOf i = c then f (s.oper i) else s.oper i := by
  by_cases hc : chanOf i = c
  · rw [if_pos hc]
    rcases (chanOf_eq_iff i c).1 hc with rfl | rfl <;> simp [modOper_oper]
  · have hnot := mt (chanOf_eq_iff i c).2 hc
    obtain ⟨h1, h2⟩ := not_or.1 hnot
    rw [if_neg hc, modOper_oper_ne _ _ _ h2, modOper_oper_ne _ _ _ h1]

end Sys2Proof.Machine

namespace Sys2Proof

open Sys2Proof.Machine

/-- Settles O12: by the latch the key-on finds. -/
theorem keyOnRestartsOnlyFromClearLatch : Obligations.KeyOnRestartsOnlyFromClearLatch :=
  fun b _ _ => ⟨keyOn_of_clear b, keyOn_of_held b⟩

/-- Settles O13: by the latch the key-off finds and the one it leaves; the release, phase by phase. -/
theorem keyOffReleasesOnlyWhenBothBitsClear : Obligations.KeyOffReleasesOnlyWhenBothBitsClear := by
  intro b o _
  refine ⟨keyOff_of_clear b, keyOff_of_still_held b, fun hheld hlast => ?_⟩
  rw [keyOff_of_last_bit b hheld hlast]
  cases o.eg <;> rfl

/-- Settles O14: a changed value latches the key code that `keyCode_toNat` computes. -/
theorem freqUpdateLatchesKeyCodeOnChange : Obligations.FreqUpdateLatchesKeyCodeOnChange := by
  intro mode nbf c
  refine ⟨freqUpdate_of_same mode, fun h => ?_⟩
  rw [freqUpdate_of_change mode h]
  exact ⟨rfl, keyCode_toNat mode nbf⟩

/-! ## The writes (R120, R121, R124) -/

/-- Settles O15: the frame of a channel write; the held value makes FREQ_UPDATE, and so the write, do nothing. -/
theorem wrFnumlUpdatesLowFrequency : Obligations.WrFnumlUpdatesLowFrequency := by
  intro c v s
  refine ⟨_, rfl, ⟨_, setFnumLow_toNat v (s.chan c).blockFnum, modChan_chan_self .., ?_⟩,
    modChan_frame ..⟩
  exact fun hsame => modChan_of_fixed (freqUpdate_of_same s.g.mode hsame)

/-- Settles O16: the key action reaches the operators alone, the frequency update the channel alone. -/
theorem wrKbfKeysBothSlotsAndUpdatesFrequency : Obligations.WrKbfKeysBothSlotsAndUpdatesFrequency := by
  intro c v s
  refine ⟨_, rfl, ⟨_, setBlockFnumHigh_toNat v (s.chan c).blockFnum, modChan_chan_self ..⟩,
    fun _ h => modChan_chan_ne _ _ _ h, fun i => ?_, rfl, rfl, rfl, rfl⟩
  have hslots : i.val / 2 = c.val ↔ chanOf i = c := (Fin.ext_iff (a := chanOf i)).symm
  simp only [hslots]
  exact modBothSlots_oper s c (keyTo (fieldKeyOn v) melodicKey) i

/-- A channel register's word from its address as a number (R81, R85). -/
theorem commandWord_channelAddr {n : Nat} (g : BitVec 3) (x : Bool) (c : Channel) (v : Byte)
    (h : n = g.toNat * 32 + x.toNat * 16 + c.val) :
    commandWord false (BitVec.ofNat 8 n) v = wordOf g (channelLow x (BitVec.ofNat 4 c.val)) v := by
  rw [h, ← channelAddr_toNat, BitVec.ofNat_toNat, BitVec.setWidth_eq, wordOf]

/-- R85 rows 18 and 20: channel c of the upper half is the alias while ALIAS_D0 = true, else ignored. -/
theorem decodeChCd_eq_alias_iff {cfg : Config} {c : BitVec 4} {ch : Channel} (v : Byte)
    (h : channelOf c = some ch) :
    decodeChCd cfg true c v = .wrFbconAlias ch v ↔ cfg.aliasD0 = true := by
  cases ha : cfg.aliasD0 with
  | false => simp [decodeChCd_ignored v (.inr ⟨rfl, ha⟩)]
  | true => simp [decodeChCd_alias v h ha]

/-- Settles O17: the frame of a channel write, and the decode of the group 0xC0 to 0xDF at the two addresses. -/
theorem wrFbconAndAliasWriteFeedbackAndConnection :
    Obligations.WrFbconAndAliasWriteFeedbackAndConnection := by
  refine ⟨fun c v s => ⟨_, rfl, rfl, modChan_chan_self .., modChan_frame ..⟩, fun cfg c v => ⟨?_, ?_⟩⟩
  · rw [commandWord_channelAddr (n := 0xC0 + c.val) 0b110#3 false c v rfl, decode_chCd]
    exact decodeChCd_fbcon cfg v (channelOf_ofNat c)
  · rw [commandWord_channelAddr (n := 0xD0 + c.val) 0b110#3 true c v rfl, decode_chCd]
    exact decodeChCd_eq_alias_iff v (channelOf_ofNat c)

end Sys2Proof
end

section
/-! PROOF. The global register writes: what each stores and what it leaves alone, the rhythm keys slot by slot, and
the writes that are ignored, one register group of R85 after the other (R140 to R147). -/

namespace Sys2Proof.Machine

/-! ## Updates of several operators -/

/-- A slot that is not on the list keeps its operator. -/
theorem modOpers_oper_of_not_mem {us : List (Slot × (Oper → Oper))} {i : Slot} (s : State)
    (h : ∀ u ∈ us, i ≠ u.1) : (modOpers us s).oper i = s.oper i := by
  induction us generalizing s with
  | nil => rfl
  | cons u us ih =>
    obtain ⟨hu, hus⟩ := List.forall_mem_cons.1 h
    exact (ih (s.modOper u.1 u.2) hus).trans (modOper_oper_ne s u.1 u.2 hu)

/-- A slot that stands on the list once is updated as its entry says. -/
theorem modOpers_oper_of_mem {us : List (Slot × (Oper → Oper))} {u : Slot × (Oper → Oper)} (s : State)
    (hd : us.Pairwise fun u w => u.1 ≠ w.1) (h : u ∈ us) :
    (modOpers us s).oper u.1 = u.2 (s.oper u.1) := by
  induction us generalizing s with
  | nil => cases h
  | cons w us ih =>
    obtain ⟨hw, hus⟩ := List.pairwise_cons.1 hd
    rcases List.mem_cons.1 h with rfl | hmem
    · exact (modOpers_oper_of_not_mem _ hw).trans (modOper_oper_self s u.1 u.2)
    · refine (ih (s.modOper w.1 w.2) hus hmem).trans ?_
      rw [modOper_oper_ne s w.1 w.2 (hw u hmem).symm]

/-! ## The rhythm keys (R146) -/

/-- Every slot of the percussion map is a rhythm slot, of channels 6 to 8. -/
theorem rhythmKeyMap_slot_ge {p : Slot × Nat} (h : p ∈ rhythmKeyMap) : 12 ≤ p.1.val := by
  revert p
  decide

theorem rhythmKeys_oper_of_melodic (v : Byte) (s : State) {i : Slot} (h : i.val < 12) :
    (rhythmKeys v s).oper i = s.oper i := by
  rw [rhythmKeys_eq_modOpers]
  refine modOpers_oper_of_not_mem s (List.forall_mem_map.2 fun p hp hi => ?_)
  have hge := rhythmKeyMap_slot_ge hp
  have heq : i.val = p.1.val := congrArg Fin.val hi
  omega

theorem rhythmKeys_oper_of_mem (v : Byte) (s : State) {p : Slot × Nat} (h : p ∈ rhythmKeyMap) :
    (rhythmKeys v s).oper p.1 = keyTo (fieldRhythm v && v.getLsbD p.2) rhythmKey (s.oper p.1) := by
  rw [rhythmKeys_eq_modOpers]
  exact modOpers_oper_of_mem s (List.pairwise_map.2 rhythmKeyMap_slots_distinct)
    (List.mem_map_of_mem h)

/-! ## The timer control (R143) -/

theorem modGlob_timerControl (v : Byte) (s : State) :
    s.modGlob (timerControl v) =
      if v.getLsbD 7 then { s with g := { s.g with status := 0#3 } }
      else { s with g := { s.g with tctl := v &&& 0x63#8 } } := by
  unfold State.modGlob timerControl fieldIrqReset
  split <;> rfl

end Sys2Proof.Machine

namespace Sys2Proof

open Sys2Proof.Machine

/-! ## The writes (R140 to R146) -/

/-- Settles O3: one field of the global record, and the gate that WR_WS reads. -/
theorem wrTestSetsWaveformGate : Obligations.WrTestSetsWaveformGate :=
  fun _ _ => ⟨_, rfl, rfl, fun hclear i w => exec_wrWs_of_gate_clear hclear i w⟩

/-- Settles O4: each is an update of one field of the global record. -/
theorem timerPresetAndModeWritesStoreTheByte : Obligations.TimerPresetAndModeWritesStoreTheByte :=
  fun _ _ => ⟨rfl, rfl, rfl⟩

/-- Settles O5: by bit 7; a TICK leaves the global record of steps 1 to 3, which advance counters alone. -/
theorem wrTctlClearsStatusOrStoresControl : Obligations.WrTctlClearsStatusOrStoresControl := by
  refine ⟨fun v s => congrArg _ (modGlob_timerControl v s), fun s => ⟨_, exec_tick s, ?_⟩⟩
  dsimp only
  rw [step4Output_g, tickAdvance_g]
  exact ⟨rfl, rfl⟩

/-- Settles O6: the fields in the global record alone, the keys in the slots of the percussion map alone. -/
theorem wrRhySetsFieldsAndKeysEveryDrum : Obligations.WrRhySetsFieldsAndKeysEveryDrum := by
  intro v s
  refine ⟨_, rfl, rfl, rfl, ⟨rfl, rfl, rfl⟩, fun i hi => ?_, fun p hp => ?_⟩
  · exact rhythmKeys_oper_of_melodic v _ hi
  · exact rhythmKeys_oper_of_mem v _ hp

/-! ## The ignored writes, group by group (R85, R147) -/

theorem isIgnored_decodeGlobal (a : BitVec 5) (v : Byte) :
    isIgnored (decodeGlobal a v) = decide (a ∉ [0x01#5, 0x02#5, 0x03#5, 0x04#5, 0x08#5]) := by
  by_cases h : a ∈ [0x01#5, 0x02#5, 0x03#5, 0x04#5, 0x08#5]
  · simp only [List.mem_cons, List.not_mem_nil, or_false] at h
    rcases h with rfl | rfl | rfl | rfl | rfl <;> rfl
  · rw [decodeGlobal_ignored v h]
    exact (decide_eq_true h).symm

/-- In an operator group the offsets without a slot are ignored, where `hit` names no ignored write and `miss`
does. -/
theorem OperatorGroup.isIgnored_decode {g : BitVec 3} {hit : Slot → Byte → Instr}
    {miss : BitVec 5 → Byte → Instr} (hg : OperatorGroup g hit miss)
    (hhit : ∀ s v, isIgnored (hit s v) = false) (hmiss : ∀ off v, isIgnored (miss off v) = true)
    (cfg : Config) (off : BitVec 5) (v : Byte) :
    isIgnored (decode cfg (.write (wordOf g off v))) = (slotOf off).isNone := by
  cases h : slotOf off with
  | some s => rw [hg.decode_of_slotOf cfg v h]; exact hhit s v
  | none => rw [hg.decode_miss cfg v h]; exact hmiss off v

theorem isIgnored_decodeChAb (x : Bool) (c : BitVec 4) (v : Byte) :
    isIgnored (decodeChAb x c v) = ((channelOf c).isNone && !(x && c == 0xD#4)) := by
  cases h : channelOf c with
  | some ch => rw [decodeChAb_of_channelOf x v h]; cases x <;> rfl
  | none =>
    by_cases hr : x = true ∧ c = 0xD#4
    · obtain ⟨rfl, rfl⟩ := hr
      rfl
    · have hbit : (x && c == 0xD#4) = false := by simpa using hr
      rw [decodeChAb_ignored v h hr, hbit]
      rfl

theorem isIgnored_decodeChCd (cfg : Config) (x : Bool) (c : BitVec 4) (v : Byte) :
    isIgnored (decodeChCd cfg x c v) = ((channelOf c).isNone || (x && !cfg.aliasD0)) := by
  unfold decodeChCd
  cases channelOf c with
  | none => rfl
  | some ch => cases x <;> cases cfg.aliasD0 <;> rfl

/-- R147's list on the operator groups: the offsets that select no slot. -/
theorem ignoredAddress_operatorGroup {g : BitVec 3} (hg : g ∈ [1#3, 2#3, 3#3, 4#3, 7#3])
    (aliasD0 : Bool) (off : BitVec 5) :
    ignoredAddress aliasD0 (g.toNat * 32 + off.toNat) = (slotOf off).isNone := by
  have key : ∀ g ∈ [1#3, 2#3, 3#3, 4#3, 7#3], ∀ (d : Bool) (off : BitVec 5),
      ignoredAddress d (g.toNat * 32 + off.toNat) = (slotOf off).isNone := by decide +kernel
  exact key g hg aliasD0 off

theorem ignoredAddress_global (aliasD0 : Bool) (a : BitVec 5) :
    ignoredAddress aliasD0 (0 * 32 + a.toNat) =
      decide (a ∉ [0x01#5, 0x02#5, 0x03#5, 0x04#5, 0x08#5]) := by
  revert aliasD0 a
  decide +kernel

theorem ignoredAddress_chAb (aliasD0 x : Bool) (c : BitVec 4) :
    ignoredAddress aliasD0 (5 * 32 + (x.toNat * 16 + c.toNat)) =
      ((channelOf c).isNone && !(x && c == 0xD#4)) := by
  revert aliasD0 x c
  decide +kernel

theorem ignoredAddress_chCd (aliasD0 x : Bool) (c : BitVec 4) :
    ignoredAddress aliasD0 (6 * 32 + (x.toNat * 16 + c.toNat)) =
      ((channelOf c).isNone || (x && !aliasD0)) := by
  revert aliasD0 x c
  decide +kernel

/-- A WRITE to bank 0 is ignored exactly at the addresses of R147's list. -/
theorem isIgnored_decode_wordOf (cfg : Config) (g : BitVec 3) (low : BitVec 5) (v : Byte) :
    isIgnored (decode cfg (.write (wordOf g low v))) =
      ignoredAddress cfg.aliasD0 (groupAddr g low).toNat := by
  have groups : ∀ g : BitVec 3, g = 0#3 ∨ g = 5#3 ∨ g = 6#3 ∨ g ∈ [1#3, 2#3, 3#3, 4#3, 7#3] := by
    decide
  obtain ⟨x, c, hlow⟩ := exists_channelLow low
  rw [groupAddr_toNat]
  rcases groups g with rfl | rfl | rfl | hg
  · rw [decode_global, isIgnored_decodeGlobal]
    exact (ignoredAddress_global _ _).symm
  · rw [hlow, decode_chAb, isIgnored_decodeChAb, channelLow_toNat]
    exact (ignoredAddress_chAb _ _ _).symm
  · rw [hlow, decode_chCd, isIgnored_decodeChCd, channelLow_toNat]
    exact (ignoredAddress_chCd _ _ _).symm
  · rw [ignoredAddress_operatorGroup hg]
    simp only [List.mem_cons, List.not_mem_nil, or_false] at hg
    rcases hg with rfl | rfl | rfl | rfl | rfl
    · exact OperatorGroup.avekm.isIgnored_decode (fun _ _ => rfl) (fun _ _ => rfl) cfg low v
    · exact OperatorGroup.ksltl.isIgnored_decode (fun _ _ => rfl) (fun _ _ => rfl) cfg low v
    · exact OperatorGroup.ardr.isIgnored_decode (fun _ _ => rfl) (fun _ _ => rfl) cfg low v
    · exact OperatorGroup.slrr.isIgnored_decode (fun _ _ => rfl) (fun _ _ => rfl) cfg low v
    · exact OperatorGroup.ws.isIgnored_decode (fun _ _ => rfl) (fun _ _ => rfl) cfg low v

/-- An ignored write answers the state it started from (R84, R86). -/
theorem exec_of_isIgnored {i : Instr} (h : isIgnored i = true) (s : State) : exec i s = .next s := by
  cases i with
  | ignoredGlobal | ignoredOff20 | ignoredOff40 | ignoredOff60 | ignoredOff80 | ignoredOffE0
  | ignoredChAb | ignoredChCd | ignoredBank => rfl
  | _ => cases h

/-- Settles O18: by the bank; bank 0 by its register groups. -/
theorem ignoredWritesChangeNothing : Obligations.IgnoredWritesChangeNothing := by
  refine ⟨fun cfg a v => ⟨?_, ?_⟩, fun i s h => exec_of_isIgnored h s⟩
  · have hword := isIgnored_decode_wordOf cfg (a.extractLsb' 5 3) (a.extractLsb' 0 5) v
    rwa [wordOf, groupAddr_fields] at hword
  · rw [decode_commandWord_otherBank]
    rfl

end Sys2Proof
end

section
/-! PROOF. The global record over a TICK: the three counters, each with its own wrap, and the noise register
(R161 to R163, R181). -/

namespace Sys2Proof.Machine

/-- What a TICK leaves of the global record and of the channels: step 4 touches neither (R221). -/
theorem execTick_global (s : State) :
    ∃ t, execTick s = .next t ∧ t.g = (tickAdvance s).g ∧ t.ch = s.ch :=
  ⟨_, exec_tick s, step4Output_g _, (step4Output_sameButHistory _).2.2.1⟩

/-! ## The noise register (R163) -/

theorem noiseShift_of_bit0 (mask : BitVec 24) {n : BitVec 23} (h : n.getLsbD 0 = true) :
    noiseShift mask n = ((n.setWidth 24 ^^^ mask) >>> 1).setWidth 23 := if_pos h

theorem noiseShift_of_not_bit0 (mask : BitVec 24) {n : BitVec 23} (h : ¬ n.getLsbD 0 = true) :
    noiseShift mask n = n >>> 1 := if_neg h

theorem noiseShift_zero (mask : BitVec 24) : noiseShift mask 0#23 = 0#23 := rfl

/-- The shift as R163 writes it on numbers: after the shift the 24-bit value fits 23 bits. -/
theorem noiseShift_toNat (mask : BitVec 24) (n : BitVec 23) :
    (noiseShift mask n).toNat =
      if n.toNat % 2 = 1 then (n.toNat ^^^ mask.toNat) / 2 else n.toNat / 2 := by
  have hodd : n.getLsbD 0 = true ↔ n.toNat % 2 = 1 := by simpa using getLsbD_iff n 0
  by_cases h : n.getLsbD 0 = true
  · have hxor : n.toNat ^^^ mask.toNat < 2 ^ 24 := Nat.xor_lt_two_pow (by omega) mask.isLt
    have hwide : n.toNat % 2 ^ 24 = n.toNat := Nat.mod_eq_of_lt (by omega)
    rw [noiseShift_of_bit0 mask h, if_pos (hodd.1 h), BitVec.toNat_setWidth,
      BitVec.toNat_ushiftRight, BitVec.toNat_xor, BitVec.toNat_setWidth, hwide,
      Nat.shiftRight_eq_div_pow]
    exact Nat.mod_eq_of_lt (by omega)
  · rw [noiseShift_of_not_bit0 mask h, if_neg (mt hodd.2 h), BitVec.toNat_ushiftRight,
      Nat.shiftRight_eq_div_pow]

/-- The shift without a mask needs no 24th bit. -/
theorem setWidth_ushiftRight_one_setWidth (n : BitVec 23) :
    (n.setWidth 24 >>> 1).setWidth 23 = n >>> 1 := by
  refine BitVec.eq_of_toNat_eq ?_
  simp [Nat.shiftRight_eq_div_pow]
  omega

/-- Under the default mask the shift is the equivalent 23-bit form of R163: the shift distributes over the XOR, and
0x800302 >> 1 = 0x400181. -/
theorem noiseShift_defaultMask (n : BitVec 23) :
    noiseShift 0x800302#24 n = (n >>> 1) ^^^ (if n.getLsbD 0 then 0x400181#23 else 0#23) := by
  by_cases h : n.getLsbD 0 = true
  · rw [noiseShift_of_bit0 _ h, if_pos h, BitVec.ushiftRight_xor_distrib, BitVec.setWidth_xor,
      setWidth_ushiftRight_one_setWidth]
    rfl
  · rw [noiseShift_of_not_bit0 _ h, if_neg h, BitVec.xor_zero]

end Sys2Proof.Machine

namespace Sys2Proof

open Sys2Proof.Machine

/-- Settles O28: the global record of a TICK is the one of steps 1 to 3, where the addition of `Fin` and `BitVec`
wraps each counter. -/
theorem tickAdvancesCounters : Obligations.TickAdvancesCounters := by
  intro s
  obtain ⟨t, hexec, hg, hch⟩ := execTick_global s
  rw [tickAdvance_g] at hg
  refine ⟨t, hexec, ?_, ?_, ?_, ?_, hch⟩ <;> rw [hg]
  · exact Fin.val_add _ _
  · exact BitVec.toNat_add _ _
  · exact BitVec.toNat_add _ _

/-- Settles O29: TICK shifts the register by `noiseShift`, which the lemmas above give on numbers, under the default mask and
at zero. -/
theorem tickShiftsNoiseRegister : Obligations.TickShiftsNoiseRegister := by
  intro s
  obtain ⟨t, hexec, hg, -⟩ := execTick_global s
  have hnoise : t.g.noise = noiseShift s.cfg.noiseMask s.g.noise := by rw [hg, tickAdvance_g]
  refine ⟨t, hexec, ?_, ?_, ?_, ?_⟩ <;> rw [hnoise]
  · exact noiseShift_toNat _ _
  · intro hmask
    rw [hmask]
    exact noiseShift_defaultMask _
  · exact fun hmask hn => noiseShift_ne_zero hmask hn
  · intro hzero
    rw [hzero]
    exact noiseShift_zero _

end Sys2Proof
end

section
/-! PROOF. The envelope over a TICK: the step of each phase, when it is due and by how much, the bound of the decay,
and where an instruction can move the envelope phase (R181 to R189). -/

namespace Sys2Proof.Machine

/-! ## The envelope step, phase by phase (R183 to R186) -/

section EgStepByPhase
variable {n : BitVec 32} {c : Chan} {o : Oper} {inc : Nat}

/-- A sustained operator holds (R185). -/
theorem egStep_of_sustained (he : o.eg = .sus) (hegt : o.egt = true) : egStep n c o = o := by
  simp [egStep, he, egSustain, hegt]

theorem egStep_of_not_due (h : stepDue n c o o.eg = none) : egStep n c o = o := by
  cases he : o.eg <;> rw [he] at h
  case off => exact egStep_of_off n c o he
  case rel => simp [egStep, he, egRelease, h]
  case sus => simp [egStep, he, egSustain, h]
  case dec => simp [egStep, he, egDecay, h]
  case att => simp [egStep, he, egAttack, h]

theorem egStep_of_attack (he : o.eg = .att) (h : stepDue n c o .att = some inc) :
    egStep n c o =
      if attackLevel o.vol.toNat inc ≤ 0 then { o with vol := 0#9, eg := .dec }
      else { o with vol := BitVec.ofInt 9 (attackLevel o.vol.toNat inc) } := by
  simp [egStep, he, egAttack, h]

theorem egStep_of_decay (he : o.eg = .dec) (h : stepDue n c o .dec = some inc) :
    egStep n c o =
      { o with
        vol := BitVec.ofNat 9 (o.vol.toNat + inc)
        eg := if slv o ≤ o.vol.toNat + inc then .sus else .dec } := by
  by_cases hs : slv o ≤ o.vol.toNat + inc <;> simp [egStep, he, egDecay, h, hs]

theorem egStep_of_percussive (he : o.eg = .sus) (hegt : o.egt = false)
    (h : stepDue n c o .sus = some inc) :
    egStep n c o = { o with vol := BitVec.ofNat 9 (min (o.vol.toNat + inc) 511) } := by
  simp [egStep, he, egSustain, hegt, h, maxAtt]

theorem egStep_of_release (he : o.eg = .rel) (h : stepDue n c o .rel = some inc) :
    egStep n c o =
      if 511 ≤ o.vol.toNat + inc then { o with vol := 511#9, eg := .off }
      else { o with vol := BitVec.ofNat 9 (o.vol.toNat + inc) } := by
  simp [egStep, he, egRelease, h, maxAtt]

/-! ## The level a due step leaves -/

theorem toNat_ofNat_level {v : Nat} (h : v ≤ 511) : (BitVec.ofNat 9 v).toNat = v :=
  Nat.mod_eq_of_lt (by omega)

/-- The attack formula with the arithmetic shift of R183. -/
theorem attackLevel_eq_shift (vol inc : Nat) :
    attackLevel vol inc = vol + (((-(vol : Int) - 1) * inc) >>> (3 : Nat)) := by
  rw [Int.shiftRight_eq_div_pow]
  rfl

/-- An attack step never raises the attenuation (R183). -/
theorem attackLevel_le (vol inc : Nat) : attackLevel vol inc ≤ vol := by
  have hprod : (-(vol : Int) - 1) * inc ≤ 0 := Int.mul_nonpos_of_nonpos_of_nonneg (by omega) (by omega)
  unfold attackLevel
  omega

/-- An attack that has not reached 0 goes on at the level of the formula. -/
theorem egStep_attack_level (he : o.eg = .att) (h : stepDue n c o .att = some inc)
    (hpos : 0 < attackLevel o.vol.toNat inc) :
    ((egStep n c o).vol.toNat : Int) = attackLevel o.vol.toNat inc ∧ (egStep n c o).eg = .att := by
  have hle := attackLevel_le o.vol.toNat inc
  have hvol := o.vol.isLt
  rw [egStep_of_attack he h, if_neg (by omega)]
  refine ⟨?_, he⟩
  rw [BitVec.toNat_ofInt]
  omega

/-- Below the largest sustain level a decay step stays within the 9 bits of the attenuation (R184). -/
theorem egStep_decay_level (he : o.eg = .dec) (h : stepDue n c o .dec = some inc)
    (hlow : o.vol.toNat < 496) : (egStep n c o).vol.toNat = o.vol.toNat + inc := by
  have hinc := (stepDue_le h).2 (by decide)
  rw [egStep_of_decay he h]
  exact toNat_ofNat_level (by omega)

theorem egStep_percussive_level (he : o.eg = .sus) (hegt : o.egt = false)
    (h : stepDue n c o .sus = some inc) :
    (egStep n c o).vol.toNat = min (o.vol.toNat + inc) 511 := by
  rw [egStep_of_percussive he hegt h]
  exact toNat_ofNat_level (Nat.min_le_right ..)

theorem egStep_release_level (he : o.eg = .rel) (h : stepDue n c o .rel = some inc)
    (hlow : o.vol.toNat + inc < 511) :
    (egStep n c o).vol.toNat = o.vol.toNat + inc ∧ (egStep n c o).eg = .rel := by
  rw [egStep_of_release he h, if_neg (by omega)]
  exact ⟨toNat_ofNat_level (by omega), he⟩

end EgStepByPhase

/-- The envelope phase never moves up in an envelope step (R188). -/
theorem egRank_egStep_le (n : BitVec 32) (c : Chan) (o : Oper) :
    egRank (egStep n c o).eg ≤ egRank o.eg := by
  rcases egStep_phase n c o with e | ⟨e, e', -⟩ | ⟨e, e'⟩ | ⟨e, e', -⟩
  · rw [e]
  all_goals rw [e, e']; decide

/-- A key action that is no key-on never moves the envelope phase up (R126). -/
theorem egRank_keyTo_false_le (b : BitVec 2) (o : Oper) :
    egRank (keyTo false b o).eg ≤ egRank o.eg := by
  by_cases hk : o.key = 0#2
  · rw [keyTo_of_clear false b o hk]
    exact le_rfl
  · rcases (keyTo_of_held false b o hk).2 with e | ⟨-, -, e, e' | e' | e'⟩
    · rw [e]
    all_goals rw [e, e']; decide

/-! ## When a step is due (R182, R260, R261) -/

theorem rateIndex_of_pos {r : BitVec 4} (h : r ≠ 0#4) (k : Nat) :
    rateIndex r k = 16 + 4 * r.toNat + k := by
  simp [rateIndex, h]

theorem rateShift_of_ge {idx : Nat} (h : 16 ≤ idx) :
    rateShift idx = if idx ≤ 67 then 12 - (idx - 16) / 4 else 0 := by
  simp [rateShift, h]

theorem rateRow_of_ge {idx : Nat} (h : 16 ≤ idx) :
    rateRow idx =
      if idx ≤ 67 then (idx - 16) % 4
      else if idx ≤ 71 then 4 + (idx - 68)
      else if idx ≤ 75 then 8 + (idx - 72)
      else 12 :=
  if_neg (by omega)

/-- A step that is no instant attack goes by the shift and the row of its rate index. -/
theorem stepDue_of_rateIndex (n : BitVec 32) {c : Chan} {o : Oper} {p : EgPhase} {r : BitVec 4}
    {idx : Nat} (hr : rateField o p = some r) (hidx : rateIndex r (ksrv c o) = idx)
    (hslow : ¬ (p = .att ∧ 78 ≤ idx)) :
    stepDue n c o p =
      if n.toNat % 2 ^ rateShift idx = 0 then
        some (egInc (rateRow idx) (n.toNat / 2 ^ rateShift idx % 8))
      else none := by
  have hrate : egRate c o p = some ⟨rateShift idx, rateRow idx⟩ := by
    simp only [egRate, hr, hidx, if_neg hslow]
  simp only [stepDue, hrate]

end Sys2Proof.Machine

namespace Sys2Proof

open Sys2Proof.Machine

/-! ## The bound of the decay (R184) -/

/-- One operator's clause of `DecayBelowInv`. -/
def DecayBelow (o : Oper) : Prop := o.eg = .dec → o.vol.toNat < 496

theorem decayBelowInv_iff (s : State) : DecayBelowInv s ↔ ∀ k, DecayBelow (s.oper k) := .rfl

theorem DecayBelow.of_sameDynamic {o o' : Oper} (h : DecayBelow o) (hd : SameDynamic o o') :
    DecayBelow o' := by
  obtain ⟨-, heg, hvol, -, -, -⟩ := hd
  simpa only [DecayBelow, heg, hvol] using h

/-- A key action keeps the attenuation, and moves no operator into DEC. -/
theorem DecayBelow.keyTo (on : Bool) (b : BitVec 2) {o : Oper} (h : DecayBelow o) :
    DecayBelow (Machine.keyTo on b o) := by
  intro hdec
  rw [keyTo_vol]
  refine h ?_
  by_cases hk : o.key = 0#2
  · rw [keyTo_of_clear on b o hk] at hdec
    cases on
    · exact hdec
    · cases hdec
  · rcases (keyTo_of_held on b o hk).2 with e | ⟨-, -, e, -⟩
    · exact e.symm.trans hdec
    · cases e.symm.trans hdec

/-- An envelope step that leaves an operator in DEC comes from a completed attack, with attenuation 0, or from a
decay whose sum lies below the sustain level. -/
theorem DecayBelow.egStep (n : BitVec 32) (c : Chan) {o : Oper} (h : DecayBelow o) :
    DecayBelow (Machine.egStep n c o) := by
  intro hdec
  rcases egStep_phase n c o with e | ⟨-, -, hv⟩ | ⟨-, e⟩ | ⟨-, e, -⟩
  · have he : o.eg = .dec := e.symm.trans hdec
    have hlow := h he
    cases hd : stepDue n c o .dec with
    | none => rwa [egStep_of_not_due (he ▸ hd)]
    | some inc =>
      have hbelow : ¬ slv o ≤ o.vol.toNat + inc := by
        intro hs
        rw [egStep_of_decay he hd, if_pos hs] at hdec
        cases hdec
      have hslv : slv o ≤ 496 := slTab_le o.sl
      rw [egStep_decay_level he hd hlow]
      omega
  · rw [hv]; decide
  · cases e.symm.trans hdec
  · cases e.symm.trans hdec

theorem exec_keeps_decayBelowInv (i : Instr) (s t : State) (hs : DecayBelowInv s)
    (h : exec i s = .next t) : DecayBelowInv t := by
  rw [decayBelowInv_iff] at hs ⊢
  intro k
  cases exec_operChange h k with
  | params _ _ hd => exact (hs k).of_sameDynamic hd
  | keyed _ b _ e => rw [e]; exact (hs k).keyTo _ b
  | ticked _ e => rw [e]; exact (hs k).egStep _ _
  | wasReset _ e => rw [e]; nofun

/-- Settles O57: by the inversion lemma `exec_operChange`; DEC is entered at attenuation 0 and kept only below the
sustain level, which is at most 496. -/
theorem stepKeepsDecayBelowSustain : Obligations.StepKeepsDecayBelowSustain :=
  step_keeps (fun _ _ hs => hs) exec_keeps_decayBelowInv

/-! ## The envelope step of a TICK (R181 to R186) -/

/-- Settles O30: the operator change of a TICK, where the envelope step writes only the attenuation and the
phase, and the phase step only the accumulator. -/
theorem tickStepsEveryEnvelope : Obligations.TickStepsEveryEnvelope := by
  intro s
  obtain ⟨t, hexec, hg, -⟩ := execTick_global s
  refine ⟨t, hexec, congrArg Glob.egCnt hg, fun i => ?_⟩
  cases tick_operChange s t i hexec with
  | params hw => cases hw
  | keyed hw => cases hw
  | wasReset hi => cases hi
  | ticked _ e =>
    rw [egStep_frame] at e
    rw [e]
    rfl

/-- Settles O31: the rule of each phase, with the level its due step leaves. -/
theorem envelopeStepFollowsTransitionTable : Obligations.EnvelopeStepFollowsTransitionTable := by
  intro n c o
  refine ⟨egStep_frame n c o, egStep_of_off n c o, egStep_of_sustained, egStep_of_not_due,
    fun inc hdue => ⟨fun he => ?_, fun he hlow => ?_, fun he hegt => ?_, fun he => ?_⟩⟩ <;>
    rw [he] at hdue
  · dsimp only
    rw [← attackLevel_eq_shift]
    exact ⟨fun hend => (egStep_of_attack he hdue).trans (if_pos hend), egStep_attack_level he hdue⟩
  · exact ⟨egStep_decay_level he hdue hlow, by rw [egStep_of_decay he hdue]⟩
  · exact ⟨egStep_percussive_level he hegt hdue, by rw [egStep_of_percussive he hegt hdue]; exact he⟩
  · exact ⟨fun hend => (egStep_of_release he hdue).trans (if_pos hend), egStep_release_level he hdue⟩

/-- Settles O32: a nonzero rate has an index of at least 16, from where `rateShift` and `rateRow` are the closed
forms; the instant attack and the zero rate are the two ends of the rate scale. -/
theorem envelopeStepsAreDueAtPowersOfTwo : Obligations.EnvelopeStepsAreDueAtPowersOfTwo := by
  refine ⟨fun o => ⟨rfl, rfl, rfl, rfl, rfl⟩, fun n c o p r hr => ⟨?_, ?_, fun hpos => ?_⟩, by decide⟩
  · rintro rfl
    exact stepDue_of_rate_zero n c hr
  · exact fun hp inc hdue => (stepDue_le hdue).2 hp
  · have hidx := rateIndex_of_pos hpos (ksrv c o)
    refine ⟨fun hfast hp => ?_, fun hslow => ?_⟩
    · subst hp
      cases hr
      exact stepDue_of_instant_attack n (by rwa [hidx])
    · have hge : 16 ≤ 16 + 4 * r.toNat + ksrv c o := by omega
      have hnot : ¬ (p = .att ∧ 78 ≤ 16 + 4 * r.toNat + ksrv c o) := fun ⟨hp, hfast⟩ =>
        hslow.elim (Nat.not_lt.2 hfast) (absurd hp)
      rw [stepDue_of_rateIndex n hr hidx hnot, rateShift_of_ge hge, rateRow_of_ge hge]

/-! ## Where an instruction can move the envelope phase (R187, R188) -/

/-- An operator leaves OFF only by a key-on of a clear latch, into ATT. -/
theorem OperChange.leaves_off {s t : State} {k : Slot} {i : Instr} (h : OperChange s t k i)
    (hoff : (s.oper k).eg = .off) (hleft : (t.oper k).eg ≠ .off) :
    keysOn k i = true ∧ (s.oper k).key = 0#2 ∧ (t.oper k).eg = .att := by
  cases h with
  | params _ _ hd =>
    obtain ⟨-, heg, -⟩ := hd
    exact absurd (heg.trans hoff) hleft
  | keyed _ b _ e =>
    rw [e] at hleft ⊢
    by_cases hk : (s.oper k).key = 0#2
    · rw [keyTo_of_clear _ b _ hk] at hleft ⊢
      cases hon : keysOn k i <;> rw [hon] at hleft
      · exact absurd hoff hleft
      · exact ⟨rfl, hk, rfl⟩
    · rcases (keyTo_of_held (keysOn k i) b _ hk).2 with heg | ⟨-, -, -, hp⟩
      · exact absurd (heg.trans hoff) hleft
      · simp [hoff] at hp
  | ticked _ e =>
    rw [e, egStep_of_off _ _ _ hoff] at hleft
    exact absurd hoff hleft
  | wasReset _ e =>
    rw [e] at hleft
    exact absurd rfl hleft

/-- Settles O43: `OperChange.leaves_off`, and the envelope step of OFF, which a TICK takes. -/
theorem offIsLeftOnlyByKeyOn : Obligations.OffIsLeftOnlyByKeyOn := by
  refine ⟨fun i s t k h => (exec_operChange h k).leaves_off, fun s k hoff => ?_⟩
  obtain ⟨t, hexec, -, hstep⟩ := tickStepsEveryEnvelope s
  refine ⟨t, hexec, ?_⟩
  rw [hstep k, egStep_of_off _ _ _ hoff]
  exact ⟨hoff, rfl⟩

/-- Settles O44: of the operator changes without a key-on, only a key-off and an envelope step move the phase,
both down; RESET puts the lowest one. -/
theorem envelopePhaseNeverRegresses : Obligations.EnvelopePhaseNeverRegresses := by
  intro i s t k h hkey
  cases exec_operChange h k with
  | params _ _ hd =>
    obtain ⟨-, heg, -⟩ := hd
    rw [heg]
  | keyed _ b _ e =>
    rw [e, hkey]
    exact egRank_keyTo_false_le b _
  | ticked _ e =>
    rw [e]
    exact egRank_egStep_le _ _ _
  | wasReset _ e =>
    rw [e]
    exact Nat.zero_le _

end Sys2Proof
end

section
/-! PROOF. The phase accumulators: what a TICK adds to each, who else writes them, and that their bits 31:26 reach no
output (R200 to R203, R212). -/

namespace Sys2Proof.Machine

/-! ## The advance of one operator (R200, R201) -/

theorem fc_eq (n : Nat) : fc n = n % 1024 * 2 ^ (5 + n / 1024 % 8) := Nat.shiftLeft_eq _ _

/-- FC ignores the bits above bit 12 (R31). -/
theorem fc_mod (n : Nat) : fc (n % 8192) = fc n := by
  have hfnum : n % 8192 % 1024 = n % 1024 := by omega
  have hblock : n % 8192 / 1024 % 8 = n / 1024 % 8 := by omega
  rw [fc, fc, hfnum, hblock]

/-- An advance is the increment of some channel, so it has 27 bits even where vibrato carries into bit 13. -/
theorem fc_mul_mulOf_lt (n : Nat) (o : Oper) : fc n * mulOf o < 2 ^ 27 := by
  have h := incrOf_lt { Chan.reset with blockFnum := BitVec.ofNat 13 n } o
  rwa [incrOf, BitVec.toNat_ofNat, fc_mod] at h

theorem vibratoFnum_eq (g : Glob) (c : Chan) (o : Oper) :
    (vibratoFnum g c o : Int) =
      if o.vib then (c.blockFnum.toNat : Int) + pmOff g c.blockFnum else c.blockFnum.toNat := by
  unfold vibratoFnum
  split
  · exact Int.toNat_of_nonneg (vibrato_nonneg g c)
  · rfl

theorem vibratoFnum_of_no_vibrato (g : Glob) (c : Chan) {o : Oper} (h : o.vib = false) :
    vibratoFnum g c o = c.blockFnum.toNat := by
  simp [vibratoFnum, h]

/-- FC on numbers with the carry, as R200 writes it for the signed sum of R201. -/
theorem fc_of_int_eq {n : Nat} {x : Int} (h : (n : Int) = x) :
    fc n = (x % 1024).toNat * 2 ^ (5 + (x / 1024 % 8).toNat) := by
  subst h
  exact fc_eq n

/-- The vibrato offset of a TICK is the one of the LFO position after its advance (R162, R201). -/
theorem pmOff_tickAdvance (s : State) (bf : BitVec 13) :
    pmOff (tickAdvance s).g bf =
      pmTab (bf.toNat / 128 % 8) s.g.pmDepth ((s.g.pmCnt.toNat + 1) % 8192 / 1024) := by
  rw [pmOff, lfoStep_eq, tickAdvance_g]
  rfl

/-- The accumulator after a TICK: the envelope step reads and writes no field of the phase step. -/
theorem execTick_cnt {s t : State} (h : execTick s = .next t) (k : Slot) :
    (t.oper k).cnt =
      (s.oper k).cnt +
        BitVec.ofNat 32
          (fc (vibratoFnum (tickAdvance s).g (s.chanAt k) (s.oper k)) * mulOf (s.oper k)) := by
  cases tick_operChange s t k h with
  | params hw => cases hw
  | keyed hw => cases hw
  | wasReset hi => cases hi
  | ticked _ e =>
    rw [egStep_frame] at e
    rw [e]
    rfl

end Sys2Proof.Machine

namespace Sys2Proof

open Sys2Proof.Machine

/-- Settles O33: the advance of `execTick_cnt`, with the vibrato offset of this TICK's LFO step. -/
theorem tickAdvancesEveryPhase : Obligations.TickAdvancesEveryPhase := by
  intro s
  refine ⟨_, exec_tick s, fun i => ?_⟩
  dsimp only
  rw [execTick_cnt (exec_tick s) i, fc_of_int_eq (vibratoFnum_eq _ _ _), pmOff_tickAdvance,
    BitVec.toNat_add, BitVec.toNat_ofNat, Nat.add_mod_mod]
  rfl

/-! ## The writers of an accumulator (R203) -/

/-- An instruction that changes an accumulator is a TICK, a RESET or a key-on of a clear latch. -/
theorem OperChange.cnt_writer {s t : State} {k : Slot} {i : Instr} (h : OperChange s t k i)
    (hne : (t.oper k).cnt ≠ (s.oper k).cnt) :
    i = .tick ∨ (i = .reset ∧ (t.oper k).cnt = 0#32) ∨
      (keysOn k i = true ∧ (s.oper k).key = 0#2 ∧ (t.oper k).cnt = 0#32) := by
  cases h with
  | params _ _ hd =>
    obtain ⟨-, -, -, hcnt, -, -⟩ := hd
    exact absurd hcnt hne
  | keyed _ b _ e =>
    rw [e] at hne ⊢
    by_cases hk : (s.oper k).key = 0#2
    · rw [keyTo_of_clear _ b _ hk] at hne ⊢
      cases hon : keysOn k i <;> rw [hon] at hne
      · exact absurd rfl hne
      · exact .inr (.inr ⟨rfl, hk, rfl⟩)
    · exact absurd (keyTo_of_held _ b _ hk).1 hne
  | ticked hi _ => exact .inl hi
  | wasReset hi e =>
    rw [e]
    exact .inr (.inl ⟨hi, rfl⟩)

/-- Settles O45: `OperChange.cnt_writer`, and the advance of a TICK from 0, which has 27 bits and so does not
wrap. -/
theorem phaseAccumulatorHasThreeWriters : Obligations.PhaseAccumulatorHasThreeWriters := by
  refine ⟨fun i s t k h => (exec_operChange h k).cnt_writer, fun s k hclear => ?_⟩
  obtain ⟨t, hexec, hg, -⟩ := execTick_global s
  have hcnt : (t.oper k).cnt.toNat =
      fc (vibratoFnum t.g (s.chanAt k) (s.oper k)) * mulOf (s.oper k) := by
    have hlt := fc_mul_mulOf_lt (vibratoFnum t.g (s.chanAt k) (s.oper k)) (s.oper k)
    rw [execTick_cnt hexec k, ← hg, hclear, BitVec.zero_add, BitVec.toNat_ofNat,
      Nat.mod_eq_of_lt (by omega)]
  refine ⟨t, hexec, hcnt, fun hvib => ?_⟩
  rw [hcnt, vibratoFnum_of_no_vibrato _ _ hvib, incrOf]

end Sys2Proof

namespace Sys2Proof.Machine

/-! ## Operators that agree but for bits 31:26 of the phase (R202) -/

/-- The operator with another phase accumulator. -/
def Oper.withCnt (o : Oper) (n : BitVec 32) : Oper := { o with cnt := n }

/-- Two accumulators agree on bits 25:0. -/
def CntLow26 (a b : BitVec 32) : Prop := b.toNat % 2 ^ 26 = a.toNat % 2 ^ 26

/-- One operator's clause of `SamePhaseLow26`. -/
def OperLow26 (o p : Oper) : Prop := CntLow26 o.cnt p.cnt ∧ p = o.withCnt p.cnt

theorem OperLow26.refl (o : Oper) : OperLow26 o o := ⟨rfl, rfl⟩

theorem OperLow26.exists_cnt {o p : Oper} (h : OperLow26 o p) :
    ∃ n, CntLow26 o.cnt n ∧ p = o.withCnt n := ⟨p.cnt, h⟩

theorem OperLow26.withCnt {o : Oper} {n : BitVec 32} (h : CntLow26 o.cnt n) :
    OperLow26 o (o.withCnt n) := ⟨h, rfl⟩

/-- The update takes operators that agree but for bits 31:26 of the phase to such operators. -/
def KeepsLow26 (f : Oper → Oper) : Prop := ∀ o p, OperLow26 o p → OperLow26 (f o) (f p)

/-- An update that neither reads nor writes the accumulator. -/
theorem keepsLow26_of_frame {f : Oper → Oper} (hcnt : ∀ o, (f o).cnt = o.cnt)
    (hf : ∀ o n, f (o.withCnt n) = (f o).withCnt n) : KeepsLow26 f := by
  intro o p h
  obtain ⟨n, hn, rfl⟩ := h.exists_cnt
  rw [hf]
  exact .withCnt ((hcnt o).symm ▸ hn)

/-- A key action on a held latch, field by field (R125, R126). -/
theorem keyTo_of_held_eq (on : Bool) (b : BitVec 2) {o : Oper} (h : o.key ≠ 0#2) :
    keyTo on b o =
      { o with
        key := if on then o.key ||| b else o.key &&& ~~~b
        eg :=
          if on = false ∧ o.key &&& ~~~b = 0#2 ∧ egRank .rel < egRank o.eg then .rel else o.eg } := by
  rw [keyTo_frame, keyTo_key, keyTo_eg_of_held on b h, (keyTo_of_held on b o h).1]

/-- A key action clears the whole accumulator or leaves it. -/
theorem keepsLow26_keyTo (on : Bool) (b : BitVec 2) : KeepsLow26 (keyTo on b) := by
  intro o p h
  obtain ⟨n, hn, rfl⟩ := h.exists_cnt
  by_cases hk : o.key = 0#2
  · rw [keyTo_of_clear on b o hk, keyTo_of_clear on b (o.withCnt n) hk]
    cases on
    · exact .withCnt hn
    · exact .refl _
  · rw [keyTo_of_held_eq on b hk, keyTo_of_held_eq on b (o := o.withCnt n) hk]
    exact .withCnt hn

/-- The envelope does not depend on the accumulator (R181 to R187). -/
theorem egStep_withCnt (n : BitVec 32) (c : Chan) (o : Oper) (m : BitVec 32) :
    egStep n c (o.withCnt m) = (egStep n c o).withCnt m := by
  cases hdue : stepDue n c o o.eg with
  | none => rw [egStep_of_not_due hdue, egStep_of_not_due (o := o.withCnt m) hdue]
  | some inc =>
    cases he : o.eg <;> rw [he] at hdue
    case off => rw [egStep_of_off n c o he, egStep_of_off n c (o.withCnt m) he]
    case rel =>
      rw [egStep_of_release he hdue, egStep_of_release (o := o.withCnt m) he hdue,
        apply_ite (Oper.withCnt · m)]
      rfl
    case sus =>
      cases hegt : o.egt
      · rw [egStep_of_percussive he hegt hdue, egStep_of_percussive (o := o.withCnt m) he hegt hdue]
        rfl
      · rw [egStep_of_sustained he hegt, egStep_of_sustained (o := o.withCnt m) he hegt]
    case dec =>
      rw [egStep_of_decay he hdue, egStep_of_decay (o := o.withCnt m) he hdue]
      rfl
    case att =>
      rw [egStep_of_attack he hdue, egStep_of_attack (o := o.withCnt m) he hdue,
        apply_ite (Oper.withCnt · m)]
      rfl

theorem keepsLow26_egStep (n : BitVec 32) (c : Chan) : KeepsLow26 (egStep n c) :=
  keepsLow26_of_frame (egStep_cnt n c) (egStep_withCnt n c)

/-- Addition carries upwards only, so the low bits of a sum come from the low bits (R200). -/
theorem CntLow26.add {a b : BitVec 32} (h : CntLow26 a b) (x : BitVec 32) : CntLow26 (a + x) (b + x) := by
  unfold CntLow26 at *
  rw [BitVec.toNat_add, BitVec.toNat_add]
  omega

theorem keepsLow26_phaseStep (g : Glob) (c : Chan) : KeepsLow26 (phaseStep g c) := by
  intro o p h
  obtain ⟨n, hn, rfl⟩ := h.exists_cnt
  exact .withCnt (hn.add _)

/-! ## What reads the accumulator: the waveform index and the rhythm bits (R212, R233) -/

/-- The 10-bit index is bits 25:16 of the phase, offset modulo 1024. -/
theorem waveIndex_of_low26 {a b : BitVec 32} (h : CntLow26 a b) (pm : Int) :
    waveIndex b pm = waveIndex a pm := by
  unfold CntLow26 at h
  have hindex : (((b.toNat / 65536 : Nat) : Int) + pm) % 1024 =
      (((a.toNat / 65536 : Nat) : Int) + pm) % 1024 := by omega
  exact congrArg Int.toNat hindex

theorem opCalc_of_low26 {a b : BitVec 32} (h : CntLow26 a b) (env : Nat) (pm : Int) (w : BitVec 2) :
    opCalc b env pm w = opCalc a env pm w := by
  rw [opCalc, opCalc, waveIndex_of_low26 h]

/-- The bits of P7 and P8 that the rhythm voices read lie below bit 26. -/
theorem phaseBit_of_low26 {o p : Oper} (h : OperLow26 o p) {k : Nat} (hk : k < 10) :
    phaseBit p k = phaseBit o k := by
  have hlow : 16 + k < 26 := by omega
  have hbit := congrArg (Nat.testBit · (16 + k)) h.1
  simp only [Nat.testBit_mod_two_pow, hlow, decide_true, Bool.true_and] at hbit
  exact hbit

end Sys2Proof.Machine

namespace Sys2Proof

open Sys2Proof.Machine

/-! ## States that agree but for bits 31:26 of the phases -/

namespace SamePhaseLow26

variable {s t : State}

theorem of_opers (hhost : SameHostSide s t) (hch : t.ch = s.ch) (hg : t.g = s.g)
    (hop : ∀ i, OperLow26 (s.oper i) (t.oper i)) : SamePhaseLow26 s t := ⟨hhost, hch, hg, hop⟩

theorem hostSide (h : SamePhaseLow26 s t) : SameHostSide s t := h.1

theorem cfg (h : SamePhaseLow26 s t) : t.cfg = s.cfg := h.hostSide.1

theorem ch (h : SamePhaseLow26 s t) : t.ch = s.ch := h.2.1

theorem g (h : SamePhaseLow26 s t) : t.g = s.g := h.2.2.1

theorem oper (h : SamePhaseLow26 s t) (i : Slot) : OperLow26 (s.oper i) (t.oper i) := h.2.2.2 i

theorem chan (h : SamePhaseLow26 s t) (c : Channel) : t.chan c = s.chan c := by
  rw [State.chan, State.chan, h.ch]

theorem chanAt (h : SamePhaseLow26 s t) (i : Slot) : t.chanAt i = s.chanAt i := h.chan (chanOf i)

/-! ### Updates -/

theorem modGlob (h : SamePhaseLow26 s t) (f : Glob → Glob) :
    SamePhaseLow26 (s.modGlob f) (t.modGlob f) :=
  of_opers h.hostSide h.ch (congrArg f h.g) h.oper

theorem modChan (h : SamePhaseLow26 s t) (c : Channel) (f : Chan → Chan) :
    SamePhaseLow26 (s.modChan c f) (t.modChan c f) := by
  refine of_opers h.hostSide ?_ h.g h.oper
  rw [State.modChan, State.modChan, h.ch, h.chan c]

theorem modOper (h : SamePhaseLow26 s t) (j : Slot) {f : Oper → Oper} (hf : KeepsLow26 f) :
    SamePhaseLow26 (s.modOper j f) (t.modOper j f) := by
  refine of_opers h.hostSide h.ch h.g fun i => ?_
  rw [modOper_oper, modOper_oper]
  split
  · exact hf _ _ (h.oper j)
  · exact h.oper i

/-- A parameter write neither reads nor writes the accumulator. -/
theorem modOper_params (h : SamePhaseLow26 s t) (j : Slot) {f : Oper → Oper}
    (hcnt : ∀ o, (f o).cnt = o.cnt) (hf : ∀ o n, f (o.withCnt n) = (f o).withCnt n) :
    SamePhaseLow26 (s.modOper j f) (t.modOper j f) :=
  h.modOper j (keepsLow26_of_frame hcnt hf)

theorem mapOper (h : SamePhaseLow26 s t) {f : Slot → Oper → Oper} (hf : ∀ i, KeepsLow26 (f i)) :
    SamePhaseLow26 (s.mapOper f) (t.mapOper f) := by
  refine of_opers ?_ ?_ ?_ fun i => ?_
  · simpa only [SameHostSide, mapOper_cfg, mapOper_pending, mapOper_observed] using h.hostSide
  · simpa only [mapOper_ch] using h.ch
  · simpa only [mapOper_g] using h.g
  · rw [mapOper_oper, mapOper_oper]
    exact hf i _ _ (h.oper i)

theorem modOpers (h : SamePhaseLow26 s t) {us : List (Slot × (Oper → Oper))}
    (hf : ∀ u ∈ us, KeepsLow26 u.2) :
    SamePhaseLow26 (Machine.modOpers us s) (Machine.modOpers us t) := by
  induction us generalizing s t with
  | nil => exact h
  | cons u us ih =>
    obtain ⟨hu, hus⟩ := List.forall_mem_cons.1 hf
    exact ih (h.modOper u.1 hu) hus

theorem rhythmKeys (h : SamePhaseLow26 s t) (v : Byte) :
    SamePhaseLow26 (Machine.rhythmKeys v s) (Machine.rhythmKeys v t) := by
  rw [rhythmKeys_eq_modOpers]
  exact h.modOpers (List.forall_mem_map.2 fun _ _ => keepsLow26_keyTo _ _)

theorem withUnitReset (h : SamePhaseLow26 s t) : SamePhaseLow26 s.withUnitReset t.withUnitReset := by
  refine of_opers h.hostSide rfl (congrArg Glob.reset h.cfg) fun i => ?_
  rw [withUnitReset_oper, withUnitReset_oper]
  exact .refl _

/-! ### Steps 1 to 3 of a TICK -/

theorem step1LfoNoise (h : SamePhaseLow26 s t) :
    SamePhaseLow26 (Machine.step1LfoNoise s) (Machine.step1LfoNoise t) := by
  unfold Machine.step1LfoNoise
  rw [h.cfg]
  exact h.modGlob _

theorem step2Envelope (h : SamePhaseLow26 s t) :
    SamePhaseLow26 (Machine.step2Envelope s) (Machine.step2Envelope t) := by
  simp only [Machine.step2Envelope, h.g, h.chanAt]
  exact (h.modGlob _).mapOper fun _ => keepsLow26_egStep _ _

theorem step3Phase (h : SamePhaseLow26 s t) :
    SamePhaseLow26 (Machine.step3Phase s) (Machine.step3Phase t) := by
  simp only [Machine.step3Phase, h.g, h.chanAt]
  exact h.mapOper fun _ => keepsLow26_phaseStep _ _

theorem tickAdvance (h : SamePhaseLow26 s t) :
    SamePhaseLow26 (Machine.tickAdvance s) (Machine.tickAdvance t) :=
  h.step1LfoNoise.step2Envelope.step3Phase

/-! ### Step 4 of a TICK: one operator -/

theorem volOf (h : SamePhaseLow26 s t) (i : Slot) : Machine.volOf t i = Machine.volOf s i := by
  obtain ⟨n, -, hn⟩ := (h.oper i).exists_cnt
  simp only [Machine.volOf, h.cfg, h.g, h.chanAt, hn]
  rfl

theorem operOutput (h : SamePhaseLow26 s t) (i : Slot) {a b : BitVec 32} (hphase : CntLow26 a b)
    (pm : Int) : Machine.operOutput t i b pm = Machine.operOutput s i a pm := by
  obtain ⟨n, -, hn⟩ := (h.oper i).exists_cnt
  simp only [Machine.operOutput, h.volOf, hn, opCalc_of_low26 hphase]
  rfl

/-- An output at the operator's own phase. -/
theorem operOutput_cnt (h : SamePhaseLow26 s t) (i : Slot) (pm : Int) :
    Machine.operOutput t i (t.oper i).cnt pm = Machine.operOutput s i (s.oper i).cnt pm :=
  h.operOutput i (h.oper i).1 pm

/-- The output of a modulator is `operOutput` at its own phase, with its feedback as the modulation (R214). -/
theorem modOutput (h : SamePhaseLow26 s t) (c : Channel) :
    Machine.modOutput t c = Machine.modOutput s c := by
  have hout := h.operOutput_cnt (op1Of c)
  simp only [Machine.operOutput] at hout
  obtain ⟨n, -, hn⟩ := (h.oper (op1Of c)).exists_cnt
  have hfb : (t.oper (op1Of c)).o0 + (t.oper (op1Of c)).o1 =
      (s.oper (op1Of c)).o0 + (s.oper (op1Of c)).o1 := by rw [hn]; rfl
  simp only [Machine.modOutput, h.chan, hfb, hout]

theorem modStep (h : SamePhaseLow26 s t) (c : Channel) :
    SamePhaseLow26 (Machine.modStep s c).1 (Machine.modStep t c).1 := by
  unfold Machine.modStep
  rw [h.modOutput c]
  exact h.modOper_params _ (fun _ => rfl) fun _ _ => rfl

theorem modStep_prev (h : SamePhaseLow26 s t) (c : Channel) :
    (Machine.modStep t c).2 = (Machine.modStep s c).2 := by
  obtain ⟨n, -, hn⟩ := (h.oper (op1Of c)).exists_cnt
  rw [Machine.modStep_prev, Machine.modStep_prev, hn]
  rfl

/-! ### Step 4 of a TICK: the voices and the mix -/

theorem channelOut (h : SamePhaseLow26 s t) (c : Channel) :
    (Machine.channelOut t c).2 = (Machine.channelOut s c).2 := by
  simp only [Machine.channelOut, h.modStep_prev c, (h.modStep c).chan, (h.modStep c).operOutput_cnt]

theorem bassDrum (h : SamePhaseLow26 s t) : (Machine.bassDrum t).2 = (Machine.bassDrum s).2 := by
  simp only [Machine.bassDrum, h.modStep_prev 6, (h.modStep 6).chan, (h.modStep 6).operOutput_cnt]

theorem cymRes1 (h : SamePhaseLow26 s t) : Machine.cymRes1 t = Machine.cymRes1 s := by
  simp [Machine.cymRes1, phaseBit_of_low26 (h.oper 14)]

theorem cymRes2 (h : SamePhaseLow26 s t) : Machine.cymRes2 t = Machine.cymRes2 s := by
  simp [Machine.cymRes2, phaseBit_of_low26 (h.oper 17)]

theorem highHat (h : SamePhaseLow26 s t) (res1 res2 nb : Bool) :
    Machine.highHat t res1 res2 nb = Machine.highHat s res1 res2 nb := by
  rw [Machine.highHat, Machine.highHat, h.operOutput 14 rfl]

theorem snareDrum (h : SamePhaseLow26 s t) (nb : Bool) :
    Machine.snareDrum t nb = Machine.snareDrum s nb := by
  rw [Machine.snareDrum, Machine.snareDrum, phaseBit_of_low26 (h.oper 14) (by decide),
    h.operOutput 15 rfl]

theorem tomTom (h : SamePhaseLow26 s t) : Machine.tomTom t = Machine.tomTom s := by
  rw [Machine.tomTom, Machine.tomTom, h.operOutput_cnt 16]

theorem topCymbal (h : SamePhaseLow26 s t) (res1 res2 : Bool) :
    Machine.topCymbal t res1 res2 = Machine.topCymbal s res1 res2 := by
  rw [Machine.topCymbal, Machine.topCymbal, h.operOutput 17 rfl]

theorem rhythmOut (h : SamePhaseLow26 s t) : (Machine.rhythmOut t).2 = (Machine.rhythmOut s).2 := by
  have h' : SamePhaseLow26 (Machine.bassDrum s).1 (Machine.bassDrum t).1 := h.modStep 6
  simp only [Machine.rhythmOut, h.g, h.bassDrum, h'.cymRes1, h'.cymRes2, h'.highHat, h'.snareDrum,
    h'.tomTom, h'.topCymbal]

theorem foldl_mixChannel (cs : List Channel) {a b : State × Int} (h : SamePhaseLow26 a.1 b.1)
    (hacc : b.2 = a.2) :
    SamePhaseLow26 (cs.foldl mixChannel a).1 (cs.foldl mixChannel b).1 ∧
      (cs.foldl mixChannel b).2 = (cs.foldl mixChannel a).2 := by
  induction cs generalizing a b with
  | nil => exact ⟨h, hacc⟩
  | cons c cs ih =>
    exact ih (h.modStep c) (congrArg₂ (· + ·) hacc (h.channelOut c))

theorem mixAcc (h : SamePhaseLow26 s t) :
    SamePhaseLow26 (Machine.mixAcc s).1 (Machine.mixAcc t).1 ∧
      (Machine.mixAcc t).2 = (Machine.mixAcc s).2 := by
  obtain ⟨hmelodic, hacc⟩ :=
    foldl_mixChannel (melodicChannels s.g.rhythm) (a := (s, 0)) (b := (t, 0)) h rfl
  unfold Machine.mixAcc
  rw [h.g]
  dsimp only
  split
  · exact ⟨hmelodic.modStep 6, congrArg₂ (· + ·) hacc hmelodic.rhythmOut⟩
  · exact ⟨hmelodic, hacc⟩

theorem step4Output (h : SamePhaseLow26 s t) :
    SamePhaseLow26 (Machine.step4Output s).1 (Machine.step4Output t).1 ∧
      (Machine.step4Output t).2 = (Machine.step4Output s).2 :=
  ⟨h.mixAcc.1, congrArg clip16 h.mixAcc.2⟩

/-- Appending the same pair to the observations of both states. -/
theorem observe (h : SamePhaseLow26 s t) (r : Stereo) :
    SamePhaseLow26 { s with observed := s.observed ++ [r] } { t with observed := t.observed ++ [r] } := by
  obtain ⟨hcfg, hpending, hobserved⟩ := h.hostSide
  exact of_opers ⟨hcfg, hpending, congrArg (· ++ [r]) hobserved⟩ h.ch h.g h.oper

end SamePhaseLow26

/-- Settles O53: a register write and steps 1 to 3 of a TICK keep the agreement on bits 25:0, because addition
carries upwards; step 4 reads the accumulators through the waveform index and the rhythm bits, which lie in bits
25:16. -/
theorem phaseBitsAbove25NeverReachTheOutput : Obligations.PhaseBitsAbove25NeverReachTheOutput := by
  intro i s t h
  cases i with
  | wrTest v => exact ⟨_, _, rfl, rfl, h.modGlob _⟩
  | wrT1 v => exact ⟨_, _, rfl, rfl, h.modGlob _⟩
  | wrT2 v => exact ⟨_, _, rfl, rfl, h.modGlob _⟩
  | wrTctl v => exact ⟨_, _, rfl, rfl, h.modGlob _⟩
  | wrMode v => exact ⟨_, _, rfl, rfl, h.modGlob _⟩
  | wrAvekm j v => exact ⟨_, _, rfl, rfl, h.modOper_params j (fun _ => rfl) fun _ _ => rfl⟩
  | wrKsltl j v => exact ⟨_, _, rfl, rfl, h.modOper_params j (fun _ => rfl) fun _ _ => rfl⟩
  | wrArdr j v => exact ⟨_, _, rfl, rfl, h.modOper_params j (fun _ => rfl) fun _ _ => rfl⟩
  | wrSlrr j v => exact ⟨_, _, rfl, rfl, h.modOper_params j (fun _ => rfl) fun _ _ => rfl⟩
  | wrWs j v =>
    refine ⟨_, _, rfl, rfl, ?_⟩
    rw [h.g]
    split
    · exact h.modOper_params j (fun _ => rfl) fun _ _ => rfl
    · exact h
  | wrRhy v => exact ⟨_, _, rfl, rfl, (h.modGlob _).rhythmKeys v⟩
  | wrFnuml c v =>
    refine ⟨_, _, rfl, rfl, ?_⟩
    rw [h.g]
    exact h.modChan c _
  | wrKbf c v =>
    refine ⟨_, _, rfl, rfl, ?_⟩
    rw [h.g]
    have hkey := keepsLow26_keyTo (fieldKeyOn v) melodicKey
    exact ((h.modOper _ hkey).modOper _ hkey).modChan c _
  | wrFbcon c v => exact ⟨_, _, rfl, rfl, h.modChan c _⟩
  | wrFbconAlias c v => exact ⟨_, _, rfl, rfl, h.modChan c _⟩
  | tick =>
    obtain ⟨hstate, hout⟩ := h.tickAdvance.step4Output
    refine ⟨_, _, exec_tick s, exec_tick t, ?_⟩
    rw [hout]
    exact hstate.observe _
  | reset => exact ⟨_, _, rfl, rfl, h.withUnitReset⟩
  | _ => exact ⟨s, t, rfl, rfl, h⟩

end Sys2Proof
end

section
/-! PROOF. TICK step 4: the voices as functions of the state before them, what the modulator steps leave in the
feedback histories, and the accumulator with its ranges (R210 to R221, R231). -/

namespace Sys2Proof.Machine

/-! ## The feedback offset and the quiet test (R215, R218) -/

theorem fbOff_of_zero (x : Int) : fbOff 0#3 x = 0 := rfl

theorem fbOff_of_ne_zero {fb : BitVec 3} (h : fb ≠ 0#3) (x : Int) :
    fbOff fb x = x / 2 ^ (9 - fb.toNat) := if_neg h

/-- The shift of FBOFF is by at least 2 bits, so the sum of two outputs becomes at most 2042. -/
theorem fbOff_range (fb : BitVec 3) {x : Int} (hlow : -8168 ≤ x) (hhigh : x ≤ 8168) :
    -2042 ≤ fbOff fb x ∧ fbOff fb x ≤ 2042 := by
  by_cases hfb : fb = 0#3
  · subst hfb
    rw [fbOff_of_zero]
    omega
  · have hshift : 2 ≤ 9 - fb.toNat := by have := fb.isLt; omega
    have hdiv : (2 : Int) ^ 2 ≤ 2 ^ (9 - fb.toNat) := pow_le_pow_right₀ (by decide) hshift
    rw [fbOff_of_ne_zero hfb]
    constructor
    · rw [Int.le_ediv_iff_mul_le (by omega)]
      omega
    · apply Int.ediv_le_of_le_mul <;> omega

/-- The envelope alone takes the table index of a quiet operator out of TLTAB (R218, R253, R254). -/
theorem opCalc_of_quiet {env : Nat} (h : envQuiet ≤ env) (phase : BitVec 32) (pm : Int) (w : BitVec 2) :
    opCalc phase env pm w = 0 := by
  unfold envQuiet at h
  exact if_pos (by unfold tlTabLen; omega)

theorem operOutput_eq_opCalc (s : State) (i : Slot) (phase : BitVec 32) (pm : Int) :
    operOutput s i phase pm = opCalc phase (volOf s i) pm (s.oper i).ws := by
  by_cases h : volOf s i < envQuiet
  · exact if_pos h
  · rw [opCalc_of_quiet (Nat.le_of_not_lt h)]
    exact if_neg h

/-- A modulator is an operator at its own phase, with its feedback as the modulation (R214). -/
theorem modOutput_eq_operOutput (s : State) (c : Channel) :
    modOutput s c =
      operOutput s (op1Of c) (s.oper (op1Of c)).cnt
        (fbOff (s.chan c).fb ((s.oper (op1Of c)).o0 + (s.oper (op1Of c)).o1)) := rfl

/-! ## What a voice reads is no other voice's history -/

namespace SameButHistory

variable {s t : State}

theorem g (h : SameButHistory s t) : t.g = s.g := h.1

theorem cfg (h : SameButHistory s t) : t.cfg = s.cfg := h.2.1

theorem ch (h : SameButHistory s t) : t.ch = s.ch := h.2.2.1

theorem hostSide (h : SameButHistory s t) : SameHostSide s t := ⟨h.2.1, h.2.2.2.1, h.2.2.2.2.1⟩

theorem oper (h : SameButHistory s t) (i : Slot) :
    t.oper i = { s.oper i with o0 := (t.oper i).o0, o1 := (t.oper i).o1 } := h.2.2.2.2.2 i

theorem chan (h : SameButHistory s t) (c : Channel) : t.chan c = s.chan c := by
  rw [State.chan, State.chan, h.ch]

theorem chanAt (h : SameButHistory s t) (i : Slot) : t.chanAt i = s.chanAt i := h.chan (chanOf i)

theorem cnt (h : SameButHistory s t) (i : Slot) : (t.oper i).cnt = (s.oper i).cnt := by rw [h.oper i]

theorem volOf (h : SameButHistory s t) (i : Slot) : Machine.volOf t i = Machine.volOf s i := by
  simp only [Machine.volOf, h.cfg, h.g, h.chanAt]
  rw [h.oper i]
  rfl

theorem operOutput (h : SameButHistory s t) (i : Slot) (phase : BitVec 32) (pm : Int) :
    Machine.operOutput t i phase pm = Machine.operOutput s i phase pm := by
  rw [operOutput_eq_opCalc, operOutput_eq_opCalc, h.volOf, h.oper i]

/-- A modulator reads no history but its own. -/
theorem modOutput (h : SameButHistory s t) {c : Channel} (ho : t.oper (op1Of c) = s.oper (op1Of c)) :
    Machine.modOutput t c = Machine.modOutput s c := by
  rw [modOutput_eq_operOutput, modOutput_eq_operOutput, h.operOutput, h.chan, ho]

theorem cymRes1 (h : SameButHistory s t) : Machine.cymRes1 t = Machine.cymRes1 s := by
  simp only [Machine.cymRes1, phaseBit, h.cnt]

theorem cymRes2 (h : SameButHistory s t) : Machine.cymRes2 t = Machine.cymRes2 s := by
  simp only [Machine.cymRes2, phaseBit, h.cnt]

theorem highHat (h : SameButHistory s t) (res1 res2 nb : Bool) :
    Machine.highHat t res1 res2 nb = Machine.highHat s res1 res2 nb := by
  rw [Machine.highHat, Machine.highHat, h.operOutput]

theorem snareDrum (h : SameButHistory s t) (nb : Bool) :
    Machine.snareDrum t nb = Machine.snareDrum s nb := by
  rw [Machine.snareDrum, Machine.snareDrum, phaseBit, phaseBit, h.cnt, h.operOutput]

theorem tomTom (h : SameButHistory s t) : Machine.tomTom t = Machine.tomTom s := by
  rw [Machine.tomTom, Machine.tomTom, h.cnt, h.operOutput]

theorem topCymbal (h : SameButHistory s t) (res1 res2 : Bool) :
    Machine.topCymbal t res1 res2 = Machine.topCymbal s res1 res2 := by
  rw [Machine.topCymbal, Machine.topCymbal, h.operOutput]

end SameButHistory

/-! ## The voices in terms of the state before them (R216, R231, R232) -/

/-- A melodic channel: its carrier, with the modulator's previous output as an addend or as the modulation. -/
theorem channelOut_value (s : State) (c : Channel) :
    (channelOut s c).2 =
      if (s.chan c).con then
        (s.oper (op1Of c)).o1 + operOutput s (op2Of c) (s.oper (op2Of c)).cnt 0
      else operOutput s (op2Of c) (s.oper (op2Of c)).cnt (s.oper (op1Of c)).o1 := by
  have h := modStep_sameButHistory s c
  simp only [channelOut, modStep_prev, h.chan, h.cnt, h.operOutput]
  split
  · rfl
  · exact Int.zero_add _

theorem bassDrum_value (s : State) :
    (bassDrum s).2 =
      2 * operOutput s 13 (s.oper 13).cnt (if (s.chan 6).con then 0 else (s.oper 12).o1) := by
  have h := modStep_sameButHistory s 6
  simp only [bassDrum, modStep_prev, h.chan, h.cnt, h.operOutput]
  rfl

theorem rhythmOut_value (s : State) :
    (rhythmOut s).2 =
      (bassDrum s).2 + highHat s (cymRes1 s) (cymRes2 s) (noiseBit s.g) + snareDrum s (noiseBit s.g) +
        tomTom s + topCymbal s (cymRes1 s) (cymRes2 s) := by
  have h := modStep_sameButHistory s 6
  simp only [rhythmOut, bassDrum_state, h.cymRes1, h.cymRes2, h.highHat, h.snareDrum, h.tomTom,
    h.topCymbal]

/-- A melodic channel depends on no history but its modulator's. -/
theorem SameButHistory.channelOut {s t : State} (h : SameButHistory s t) {c : Channel}
    (ho : t.oper (op1Of c) = s.oper (op1Of c)) :
    (Machine.channelOut t c).2 = (Machine.channelOut s c).2 := by
  rw [channelOut_value, channelOut_value, h.chan, h.cnt, h.operOutput, h.operOutput, ho]

/-- The rhythm part depends on no history but slot 12's. -/
theorem SameButHistory.rhythmOut {s t : State} (h : SameButHistory s t) (ho : t.oper 12 = s.oper 12) :
    (Machine.rhythmOut t).2 = (Machine.rhythmOut s).2 := by
  have hbass : (bassDrum t).2 = (bassDrum s).2 := by
    rw [bassDrum_value, bassDrum_value, h.chan, h.cnt, h.operOutput, ho]
  rw [rhythmOut_value, rhythmOut_value, hbass, h.cymRes1, h.cymRes2, h.highHat, h.snareDrum, h.tomTom,
    h.topCymbal, h.g]

/-! ## A list of modulator steps -/

/-- The modulator steps of the listed channels, in order (R214). -/
def modSteps (cs : List Channel) (s : State) : State := cs.foldl (fun t c => (modStep t c).1) s

theorem modSteps_cons (c : Channel) (cs : List Channel) (s : State) :
    modSteps (c :: cs) s = modSteps cs (modStep s c).1 := rfl

/-- Mixing channels leaves the state of their modulator steps. -/
theorem foldl_mixChannel_state (cs : List Channel) (acc : State × Int) :
    (cs.foldl mixChannel acc).1 = modSteps cs acc.1 :=
  (List.foldl_hom Prod.fst fun _ _ => rfl).symm

theorem modStep_oper_of_ne (s : State) {c : Channel} {i : Slot} (h : i ≠ op1Of c) :
    (modStep s c).1.oper i = s.oper i := by
  rw [modStep_oper, if_neg h]

theorem modStep_oper_op1Of (s : State) (c : Channel) :
    (modStep s c).1.oper (op1Of c) =
      { s.oper (op1Of c) with o0 := (s.oper (op1Of c)).o1, o1 := modOutput s c } := by
  rw [modStep_oper, if_pos rfl]

theorem modStep_oper_op1Of_ne (s : State) {c d : Channel} (h : d ≠ c) :
    (modStep s c).1.oper (op1Of d) = s.oper (op1Of d) :=
  modStep_oper_of_ne s (mt (op1Of_inj d c).1 h)

theorem modSteps_oper_of_not_mem {cs : List Channel} {i : Slot} (s : State)
    (h : ∀ c ∈ cs, i ≠ op1Of c) : (modSteps cs s).oper i = s.oper i := by
  induction cs generalizing s with
  | nil => rfl
  | cons c cs ih =>
    obtain ⟨hc, hcs⟩ := List.forall_mem_cons.1 h
    rw [modSteps_cons, ih _ hcs, modStep_oper_of_ne s hc]

theorem modSteps_oper_op1Of_of_not_mem {cs : List Channel} {c : Channel} (s : State) (h : c ∉ cs) :
    (modSteps cs s).oper (op1Of c) = s.oper (op1Of c) :=
  modSteps_oper_of_not_mem s fun d hd e => h ((op1Of_inj c d).1 e ▸ hd)

/-- Among distinct channels each history moves on once, with the output computed in the state before all of
them. -/
theorem modSteps_oper_op1Of_of_mem {cs : List Channel} {c : Channel} (s : State) (hnd : cs.Nodup)
    (h : c ∈ cs) :
    (modSteps cs s).oper (op1Of c) =
      { s.oper (op1Of c) with o0 := (s.oper (op1Of c)).o1, o1 := modOutput s c } := by
  induction cs generalizing s with
  | nil => cases h
  | cons d cs ih =>
    obtain ⟨hd, hnd⟩ := List.nodup_cons.1 hnd
    rw [modSteps_cons]
    rcases List.mem_cons.1 h with rfl | hmem
    · rw [modSteps_oper_op1Of_of_not_mem _ hd, modStep_oper_op1Of]
    · have hsame := modStep_oper_op1Of_ne s (ne_of_mem_of_not_mem hmem hd)
      rw [ih _ hnd hmem, (modStep_sameButHistory s d).modOutput hsame, hsame]

/-- Mixing distinct channels adds the values they have in the state before all of them. -/
theorem foldl_mixChannel_value {cs : List Channel} (hnd : cs.Nodup) (acc : State × Int) :
    (cs.foldl mixChannel acc).2 = acc.2 + (cs.map fun c => (channelOut acc.1 c).2).sum := by
  induction cs generalizing acc with
  | nil => exact (Int.add_zero _).symm
  | cons d cs ih =>
    obtain ⟨hd, hnd⟩ := List.nodup_cons.1 hnd
    have hrest : (cs.map fun c => (channelOut (modStep acc.1 d).1 c).2) =
        cs.map fun c => (channelOut acc.1 c).2 :=
      List.map_congr_left fun c hc =>
        (modStep_sameButHistory acc.1 d).channelOut
          (modStep_oper_op1Of_ne acc.1 (ne_of_mem_of_not_mem hc hd))
    calc ((d :: cs).foldl mixChannel acc).2
        = acc.2 + (channelOut acc.1 d).2 + (cs.map fun c => (channelOut (modStep acc.1 d).1 c).2).sum :=
          ih hnd (mixChannel acc d)
      _ = acc.2 + ((d :: cs).map fun c => (channelOut acc.1 c).2).sum := by
          rw [hrest, List.map_cons, List.sum_cons, Int.add_assoc]

/-! ## The mix (R211) -/

theorem melodicChannels_nodup (rhythm : Bool) : (melodicChannels rhythm).Nodup := by
  cases rhythm <;> decide

/-- The channels whose modulator step 4 runs: the melodic ones, and channel 6 for the bass drum (R211, R232). -/
def steppedChannels (rhythm : Bool) : List Channel := melodicChannels rhythm ++ (if rhythm then [6] else [])

theorem steppedChannels_nodup (rhythm : Bool) : (steppedChannels rhythm).Nodup := by
  cases rhythm <;> decide

theorem mem_steppedChannels {rhythm : Bool} {c : Channel} :
    c ∈ steppedChannels rhythm ↔ c.val ≤ 6 ∨ rhythm = false := by
  revert c
  cases rhythm <;> decide

theorem mixAcc_of_melodic {s : State} (h : s.g.rhythm = false) :
    mixAcc s = (melodicChannels false).foldl mixChannel (s, 0) := by
  simp [mixAcc, h]

theorem mixAcc_of_rhythm {s : State} (h : s.g.rhythm = true) :
    mixAcc s =
      ((modStep ((melodicChannels true).foldl mixChannel (s, 0)).1 6).1,
        ((melodicChannels true).foldl mixChannel (s, 0)).2 +
          (rhythmOut ((melodicChannels true).foldl mixChannel (s, 0)).1).2) := by
  simp [mixAcc, h]

theorem mixAcc_state (s : State) : (mixAcc s).1 = modSteps (steppedChannels s.g.rhythm) s := by
  cases hr : s.g.rhythm
  · rw [mixAcc_of_melodic hr, foldl_mixChannel_state]
    rfl
  · rw [mixAcc_of_rhythm hr, foldl_mixChannel_state]
    rfl

/-- The accumulator is the sum of the voices in the state before step 4: the bass drum's channel 6 is no melodic
channel while the rhythm part is mixed. -/
theorem mixAcc_value (s : State) :
    (mixAcc s).2 =
      ((melodicChannels s.g.rhythm).map fun c => (channelOut s c).2).sum +
        (if s.g.rhythm then (rhythmOut s).2 else 0) := by
  have hsum := foldl_mixChannel_value (melodicChannels_nodup s.g.rhythm) (s, 0)
  rw [Int.zero_add] at hsum
  cases hr : s.g.rhythm <;> rw [hr] at hsum
  · rw [mixAcc_of_melodic hr]
    exact hsum.trans (Int.add_zero _).symm
  · have hframe := foldl_mixChannel_sameButHistory (melodicChannels true) (s, 0)
    have h12 : ((melodicChannels true).foldl mixChannel (s, 0)).1.oper 12 = s.oper 12 := by
      rw [foldl_mixChannel_state]
      exact modSteps_oper_op1Of_of_not_mem (c := 6) s (by decide)
    rw [mixAcc_of_rhythm hr]
    exact congrArg₂ (· + ·) hsum (hframe.rhythmOut h12)

/-! ## Ranges (R219) -/

theorem channelOut_range {s : State} (h : HistoryInv s) (c : Channel) :
    -8168 ≤ (channelOut s c).2 ∧ (channelOut s c).2 ≤ 8168 := by
  obtain ⟨-, ⟨hlow, hhigh⟩, -⟩ := h (op1Of c)
  rw [channelOut_value]
  split
  · have := operOutput_range s (op2Of c) (s.oper (op2Of c)).cnt 0
    omega
  · have := operOutput_range s (op2Of c) (s.oper (op2Of c)).cnt (s.oper (op1Of c)).o1
    omega

/-- A rhythm voice is twice an operator's output. -/
theorem two_mul_operOutput_range (s : State) (i : Slot) (phase : BitVec 32) (pm : Int) :
    -8168 ≤ 2 * operOutput s i phase pm ∧ 2 * operOutput s i phase pm ≤ 8168 := by
  have := operOutput_range s i phase pm
  omega

theorem bassDrum_range (s : State) : -8168 ≤ (bassDrum s).2 ∧ (bassDrum s).2 ≤ 8168 := by
  rw [bassDrum_value]
  exact two_mul_operOutput_range ..

theorem highHat_range (s : State) (res1 res2 nb : Bool) :
    -8168 ≤ highHat s res1 res2 nb ∧ highHat s res1 res2 nb ≤ 8168 := two_mul_operOutput_range ..

theorem snareDrum_range (s : State) (nb : Bool) :
    -8168 ≤ snareDrum s nb ∧ snareDrum s nb ≤ 8168 := two_mul_operOutput_range ..

theorem tomTom_range (s : State) : -8168 ≤ tomTom s ∧ tomTom s ≤ 8168 := two_mul_operOutput_range ..

theorem topCymbal_range (s : State) (res1 res2 : Bool) :
    -8168 ≤ topCymbal s res1 res2 ∧ topCymbal s res1 res2 ≤ 8168 := two_mul_operOutput_range ..

theorem rhythmOut_range (s : State) : -40840 ≤ (rhythmOut s).2 ∧ (rhythmOut s).2 ≤ 40840 := by
  have hbd := bassDrum_range s
  have hhh := highHat_range s (cymRes1 s) (cymRes2 s) (noiseBit s.g)
  have hsd := snareDrum_range s (noiseBit s.g)
  have htom := tomTom_range s
  have htc := topCymbal_range s (cymRes1 s) (cymRes2 s)
  rw [rhythmOut_value]
  omega

/-- A sum of channels is at most 8168 times their number. -/
theorem sum_channelOut_range {s : State} (h : HistoryInv s) (cs : List Channel) :
    -(8168 * cs.length : Int) ≤ (cs.map fun c => (channelOut s c).2).sum ∧
      (cs.map fun c => (channelOut s c).2).sum ≤ 8168 * cs.length := by
  induction cs with
  | nil => simp
  | cons c cs ih =>
    have := channelOut_range h c
    rw [List.map_cons, List.sum_cons, List.length_cons]
    omega

/-- A state in which the clip acts: every channel is parallel, and every modulator has just been at full scale. -/
def clippingState : State :=
  { State.reset with
    ch := Vector.replicate 9 { Chan.reset with con := true }
    op := Vector.ofFn fun i : Slot =>
      if i.val % 2 = 0 then { Oper.reset with o0 := 4084, o1 := 4084 } else Oper.reset }

theorem clippingState_clips : 32767 < (mixAcc clippingState).2 := by decide +kernel

theorem clippingState_historyInv : HistoryInv clippingState := by
  unfold HistoryInv InOutputRange; decide +kernel

theorem clippingState_keyPhaseInv : KeyPhaseInv clippingState := by
  unfold KeyPhaseInv KeyPhaseAgree; decide +kernel

end Sys2Proof.Machine

namespace Sys2Proof

open Sys2Proof.Machine

/-- Settles O35: the value is `channelOut_value`, the state that of the modulator step. -/
theorem melodicChannelUsesModulatorOneTickLate : Obligations.MelodicChannelUsesModulatorOneTickLate :=
  fun s c => ⟨channelOut_value s c, modStep_oper_op1Of s c, fun _ hj => modStep_oper_of_ne s hj,
    rfl, rfl, (modStep_sameButHistory s c).hostSide⟩

/-- Settles O36: the shift floors as the division does, and `fbOff_range` bounds it. -/
theorem feedbackOffsetIsFlooringShift : Obligations.FeedbackOffsetIsFlooringShift := by
  refine fun fb x => ⟨?_, fun h => ?_, fbOff_range fb⟩
  · rintro rfl
    exact fbOff_of_zero x
  · rw [fbOff_of_ne_zero h, Int.shiftRight_eq_div_pow]
    norm_cast

/-- Settles O37: 384 * 16 is the length of TLTAB (`opCalc_of_quiet`). -/
theorem quietOperatorIsSilent : Obligations.QuietOperatorIsSilent :=
  ⟨fun phase _ pm w h => opCalc_of_quiet h phase pm w, operOutput_eq_opCalc,
    fun s c => (modOutput_eq_operOutput s c).trans (operOutput_eq_opCalc s _ _ _)⟩

/-- Settles O38: the accumulator is a sum of voices (`mixAcc_value`), each in its range; `clippingState` exceeds the
clip. -/
theorem outputAccumulatorRanges : Obligations.OutputAccumulatorRanges := by
  refine ⟨opCalc_range, fun s h => ⟨channelOut_range h, rhythmOut_range s, fun hr => ?_, fun hr => ?_⟩,
    clippingState, clippingState_historyInv, clippingState_keyPhaseInv, clippingState_clips⟩ <;>
  rw [mixAcc_value, hr]
  · have hsum := sum_channelOut_range h (melodicChannels false)
    rw [show (melodicChannels false).length = 9 from rfl] at hsum
    simpa using hsum
  · have hsum := sum_channelOut_range h (melodicChannels true)
    have hrhythm := rhythmOut_range s
    rw [show (melodicChannels true).length = 6 from rfl] at hsum
    rw [if_pos rfl]
    omega

/-- Settles O39: the accumulator of step 4 is `mixAcc_value`, and step 4 leaves the observation. -/
theorem tickReturnsClippedSumOfIndependentVoices :
    Obligations.TickReturnsClippedSumOfIndependentVoices := by
  refine fun s => ⟨_, exec_tick s, ?_⟩
  obtain ⟨-, -, hobserved⟩ := (step4Output_sameButHistory (tickAdvance s)).hostSide
  have hout : (step4Output (tickAdvance s)).2 = clip16 (mixAcc (tickAdvance s)).2 := rfl
  have hrhythm : (tickAdvance s).g.rhythm = s.g.rhythm := rfl
  have hmelodic : melodicChannels s.g.rhythm =
      if s.g.rhythm then [0, 1, 2, 3, 4, 5] else [0, 1, 2, 3, 4, 5, 6, 7, 8] := by
    cases s.g.rhythm <;> rfl
  simp only [hobserved, hout, mixAcc_value, hrhythm, hmelodic, tickAdvance_observed, clip16]

/-- Settles O40: step 4 leaves the state of its modulator steps (`mixAcc_state`), which run for the channels of
`mem_steppedChannels`. -/
theorem outputStepWritesOnlyModulatorHistories : Obligations.OutputStepWritesOnlyModulatorHistories := by
  intro s
  have hframe := step4Output_sameButHistory s
  have hstate : (step4Output s).1 = modSteps (steppedChannels s.g.rhythm) s := mixAcc_state s
  have hkept (c : Channel) (h : c ∉ steppedChannels s.g.rhythm) :
      (step4Output s).1.oper (op1Of c) = s.oper (op1Of c) := by
    rw [hstate, modSteps_oper_op1Of_of_not_mem s h]
  refine ⟨hframe.g, hframe.ch, hframe.hostSide, fun c => ?_, fun c hc => ?_, fun hr => ?_,
    _, exec_tick s, rfl, step4Output_g _, (step4Output_sameButHistory (tickAdvance s)).ch⟩
  · rw [hstate, modSteps_oper_of_not_mem s fun d _ => op2Of_ne_op1Of c d]
  · rw [hstate, modSteps_oper_op1Of_of_mem s (steppedChannels_nodup _) (mem_steppedChannels.2 hc)]
  · rw [hr] at hkept
    exact ⟨hkept 7 (by decide), hkept 8 (by decide)⟩

end Sys2Proof
end

section
/-! PROOF. The rhythm voices in one form: twice the operator's output while it is audible, at a phase that the shared
bits choose (R230 to R237). -/

namespace Sys2Proof.Machine

/-! ## The phases that the shared bits choose (R234, R235, R237) -/

/-- Bit 9 of the index that `res1` and `res2` choose decides which of the two the noise bit replaces (R234). -/
theorem phaseAt_hhIndex (res1 res2 nb : Bool) :
    phaseAt (hhIndex res1 res2 nb) =
      if res1 || res2 then (if nb then 0x02D00000#32 else 0x02340000#32)
      else (if nb then 0x00340000#32 else 0x00D00000#32) := by
  cases res1 <;> cases res2 <;> cases nb <;> rfl

/-- The noise bit flips bit 8 of the index, whichever P7[8] chooses (R235). -/
theorem phaseAt_sdIndex (p78 nb : Bool) :
    phaseAt (sdIndex p78 nb) =
      if p78 then (if nb then 0x03000000#32 else 0x02000000#32)
      else (if nb then 0x00000000#32 else 0x01000000#32) := by
  cases p78 <;> cases nb <;> rfl

theorem phaseAt_tcIndex (res1 res2 : Bool) :
    phaseAt (tcIndex res1 res2) = if res1 || res2 then 0x03000000#32 else 0x01000000#32 := by
  cases res1 <;> cases res2 <;> rfl

/-! ## A doubled output behind the quiet test (R213, R232) -/

theorem two_mul_operOutput (s : State) (i : Slot) (phase : BitVec 32) (pm : Int) :
    2 * operOutput s i phase pm =
      if volOf s i < 384 then 2 * opCalc phase (volOf s i) pm (s.oper i).ws else 0 := by
  unfold operOutput envQuiet
  dsimp only
  split <;> rfl

end Sys2Proof.Machine

namespace Sys2Proof

open Sys2Proof.Machine

/-- Settles O41: the sum is `rhythmOut_value`, in which every voice is a doubled output (`two_mul_operOutput`) at the
phase its index stands for; the state is that of channel 6's modulator step, whose operator 1 is slot 12. -/
theorem rhythmSumFollowsVoiceRules : Obligations.RhythmSumFollowsVoiceRules := by
  refine fun s => ⟨?_, modStep_oper_op1Of s 6, fun _ hj => modStep_oper_of_ne s hj, rfl, rfl,
    (modStep_sameButHistory s 6).hostSide⟩
  rw [rhythmOut_value, bassDrum_value, highHat, snareDrum, tomTom, topCymbal, phaseAt_hhIndex,
    phaseAt_sdIndex, phaseAt_tcIndex]
  simp only [two_mul_operOutput]
  rfl

end Sys2Proof
end

section
/-! PROOF. Every operation completes, what the host's side of the boundary gets from it, and the operands that are
refused before any operation (R160, R165, R270, R271). -/

namespace Sys2Proof.Machine

/-- The unit is total (R270). -/
theorem exec_completes (i : Instr) (s : State) : ∃ t, exec i s = .next t := by
  cases i <;> exact ⟨_, rfl⟩

theorem clip16_range (x : Int) : -32768 ≤ clip16 x ∧ clip16 x ≤ 32767 := by
  unfold clip16
  omega

/-- Every instruction but TICK leaves the host's side, RESET included. -/
theorem exec_hostSide {i : Instr} {s t : State} (hi : i ≠ .tick) (h : exec i s = .next t) :
    SameHostSide s t := by
  cases i with
  | tick => exact absurd rfl hi
  | wrWs j v => cases h; split <;> exact ⟨rfl, rfl, rfl⟩
  | _ => cases h; exact ⟨rfl, rfl, rfl⟩

/-- What the host's side gets from a TICK: one more pair, of step 4's clipped sum. -/
theorem execTick_hostSide {s t : State} (h : execTick s = .next t) :
    t.cfg = s.cfg ∧ t.pending = s.pending ∧
      t.observed = s.observed ++
        [⟨clip16 (mixAcc (tickAdvance s)).2, clip16 (mixAcc (tickAdvance s)).2⟩] := by
  obtain ⟨hcfg, hpending, hobserved⟩ := (step4Output_sameButHistory (tickAdvance s)).hostSide
  cases (exec_tick s).symm.trans h
  exact ⟨hcfg, hpending, congrArg (· ++ _) hobserved⟩

end Sys2Proof.Machine

namespace Sys2Proof

open Sys2Proof.Machine

/-- Settles O20: `exec_completes`, with the host's side by `exec_hostSide` and `execTick_hostSide`. -/
theorem everyOperationCompletes : Obligations.EveryOperationCompletes := by
  intro i s
  obtain ⟨t, hexec⟩ := exec_completes i s
  by_cases hi : i = .tick
  · subst hi
    obtain ⟨hcfg, hpending, hobserved⟩ := execTick_hostSide hexec
    exact ⟨t, hexec, hcfg, hpending, fun hne => absurd rfl hne,
      fun _ => ⟨_, hobserved, clip16_range _⟩⟩
  · obtain ⟨hcfg, hpending, hobserved⟩ := exec_hostSide hi hexec
    exact ⟨t, hexec, hcfg, hpending, fun _ => hobserved, fun htick => absurd htick hi⟩

/-! ## The refusals (R271) -/

theorem transcribe_of_negative_bank {bank : Int} (h : bank < 0) (addr data : Int) :
    transcribe (.write bank addr data) = .error (.negativeBank bank) := if_pos h

theorem transcribe_of_bad_addr {bank addr : Int} (hb : 0 ≤ bank) (ha : addr < 0 ∨ 255 < addr)
    (data : Int) : transcribe (.write bank addr data) = .error (.addrNotByte addr) := by
  rw [transcribe, if_neg (by omega), if_pos ha]

theorem transcribe_of_bad_data {bank addr data : Int} (hb : 0 ≤ bank) (ha : 0 ≤ addr)
    (ha' : addr ≤ 255) (hd : data < 0 ∨ 255 < data) :
    transcribe (.write bank addr data) = .error (.dataNotByte data) := by
  rw [transcribe, if_neg (by omega), if_neg (by omega), if_pos hd]

/-- Settles O26: the transcriber's answer by the first operand outside the domain, and a step on it; inside the domain
the step performs an instruction, which completes. -/
theorem operandsOutsideDomainAreRefused : Obligations.OperandsOutsideDomainAreRefused := by
  intro s bank addr data rest hp
  refine ⟨fun hb => step_of_refused hp (transcribe_of_negative_bank hb addr data),
    fun hb ha => step_of_refused hp (transcribe_of_bad_addr hb ha data),
    fun hb ha ha' hd => step_of_refused hp (transcribe_of_bad_data hb ha ha' hd),
    fun hb ha ha' hd hd' => ?_⟩
  rw [step_of_pending hp (transcribe_write_of_domain hb ha ha' hd hd')]
  exact exec_completes _ _

end Sys2Proof
end

section
/-! PROOF. The fields of the global record that reach no output. An instruction's effect on the global record depends
on that record and the parameters alone (`globAfter`), and its effect on everything else reads of the record only what
`SameReads` lists (R144, R272, R278). -/

namespace Sys2Proof.Machine

/-- The state with another global record. -/
def State.withGlob (s : State) (g : Glob) : State := { s with g := g }

section WithGlob
variable (s : State) (g : Glob)

@[simp] theorem withGlob_g : (s.withGlob g).g = g := rfl
@[simp] theorem withGlob_cfg : (s.withGlob g).cfg = s.cfg := rfl
@[simp] theorem withGlob_oper (i : Slot) : (s.withGlob g).oper i = s.oper i := rfl
@[simp] theorem withGlob_chan (c : Channel) : (s.withGlob g).chan c = s.chan c := rfl
@[simp] theorem withGlob_chanAt (i : Slot) : (s.withGlob g).chanAt i = s.chanAt i := rfl

end WithGlob

/-- Two global records agree on what the rules read of them for anything outside them: the waveform gate, NOTE-SEL,
the depths, the rhythm flag, the LFO positions, the noise register, and bits 14:0 of the envelope counter. -/
structure SameReads (g h : Glob) : Prop where
  wavesel : h.wavesel = g.wavesel
  noteSel : h.mode.getLsbD 6 = g.mode.getLsbD 6
  amDepth : h.amDepth = g.amDepth
  pmDepth : h.pmDepth = g.pmDepth
  rhythm : h.rhythm = g.rhythm
  egLow : h.egCnt.toNat % 2 ^ 15 = g.egCnt.toNat % 2 ^ 15
  amCnt : h.amCnt = g.amCnt
  pmCnt : h.pmCnt = g.pmCnt
  noise : h.noise = g.noise

/-- The global record an instruction leaves. -/
def globAfter (i : Instr) (cfg : Config) (g : Glob) : Glob :=
  match i with
  | .wrTest v => { g with wavesel := fieldWse v }
  | .wrT1 v => { g with t1 := v }
  | .wrT2 v => { g with t2 := v }
  | .wrTctl v => timerControl v g
  | .wrMode v => { g with mode := v }
  | .wrRhy v => rhythmFields v g
  | .tick => { advanceLfoNoise cfg.noiseMask g with egCnt := g.egCnt + 1 }
  | .reset => Glob.reset cfg
  | _ => g

/-! ## Bits 14:0 of the envelope counter (R182, R278) -/

/-- The low bits of the advanced counter come from the low bits. -/
theorem egCnt_succ_low15 {n m : BitVec 32} (h : m.toNat % 2 ^ 15 = n.toNat % 2 ^ 15) :
    (m + 1).toNat % 2 ^ 15 = (n + 1).toNat % 2 ^ 15 := by
  rw [BitVec.toNat_add, BitVec.toNat_add]
  omega

theorem egRate_shift_le {c : Chan} {o : Oper} {p : EgPhase} {pr : RatePair}
    (h : egRate c o p = some pr) : pr.shift ≤ 12 := by
  unfold egRate at h
  split at h
  · cases h
  · dsimp only at h
    split at h <;> cases h
    · exact Nat.zero_le _
    · exact rateShift_le _

theorem mod_two_pow_of_low15 {n m sh : Nat} (h : m % 2 ^ 15 = n % 2 ^ 15) (hsh : sh ≤ 15) :
    m % 2 ^ sh = n % 2 ^ sh := by
  have hdvd : 2 ^ sh ∣ 2 ^ 15 := Nat.pow_dvd_pow 2 hsh
  rw [← Nat.mod_mod_of_dvd m hdvd, h, Nat.mod_mod_of_dvd n hdvd]

/-- Whether a step is due, and which of the eight increments it takes, is fixed by the counter's low sh + 3 bits, and
sh is at most 12. -/
theorem stepDue_of_low15 {n m : BitVec 32} (h : m.toNat % 2 ^ 15 = n.toNat % 2 ^ 15) (c : Chan)
    (o : Oper) (p : EgPhase) : stepDue m c o p = stepDue n c o p := by
  unfold stepDue
  cases hr : egRate c o p with
  | none => rfl
  | some pr =>
    have hsh := egRate_shift_le hr
    have hdue := mod_two_pow_of_low15 h (sh := pr.shift) (by omega)
    have hlow := mod_two_pow_of_low15 h (sh := pr.shift + 3) (by omega)
    have hsel : m.toNat / 2 ^ pr.shift % 8 = n.toNat / 2 ^ pr.shift % 8 := by
      have hpow : 2 ^ (pr.shift + 3) = 2 ^ pr.shift * 8 := Nat.pow_add 2 pr.shift 3
      rw [hpow] at hlow
      rw [← Nat.mod_mul_right_div_self, ← Nat.mod_mul_right_div_self, hlow]
    simp only [hdue, hsel]

/-- The envelope step reads the counter only to see whether it is due. -/
theorem egStep_of_low15 {n m : BitVec 32} (h : m.toNat % 2 ^ 15 = n.toNat % 2 ^ 15) (c : Chan)
    (o : Oper) : egStep m c o = egStep n c o := by
  simp only [egStep, egAttack, egDecay, egSustain, egRelease, stepDue_of_low15 h]

/-! ## Steps 1 to 3 of a TICK -/

section Advance
variable {g h : Glob}

theorem SameReads.phaseStep (hr : SameReads g h) (c : Chan) (o : Oper) :
    Machine.phaseStep h c o = Machine.phaseStep g c o := by
  simp only [Machine.phaseStep, vibratoFnum, pmOff, lfoStep, hr.pmDepth, hr.pmCnt]

theorem SameReads.lfoAm (hr : SameReads g h) : Machine.lfoAm h = Machine.lfoAm g := by
  simp only [Machine.lfoAm, hr.amCnt, hr.amDepth]

theorem SameReads.noiseBit (hr : SameReads g h) : Machine.noiseBit h = Machine.noiseBit g := by
  simp only [Machine.noiseBit, hr.noise]

theorem SameReads.keyCode (hr : SameReads g h) : Machine.keyCode h.mode = Machine.keyCode g.mode := by
  funext bf
  simp only [Machine.keyCode, hr.noteSel]

theorem SameReads.freqUpdate (hr : SameReads g h) :
    Machine.freqUpdate h.mode = Machine.freqUpdate g.mode := by
  funext nbf c
  simp only [Machine.freqUpdate, hr.keyCode]

theorem SameReads.globAfter_tick (hr : SameReads g h) (cfg : Config) :
    SameReads (globAfter .tick cfg g) (globAfter .tick cfg h) where
  wavesel := hr.wavesel
  noteSel := hr.noteSel
  amDepth := hr.amDepth
  pmDepth := hr.pmDepth
  rhythm := hr.rhythm
  egLow := egCnt_succ_low15 hr.egLow
  amCnt := congrArg (· + 1) hr.amCnt
  pmCnt := congrArg (· + 1) hr.pmCnt
  noise := congrArg (noiseShift cfg.noiseMask) hr.noise

end Advance

theorem tickAdvance_g_eq_globAfter (s : State) : (tickAdvance s).g = globAfter .tick s.cfg s.g :=
  tickAdvance_g s

section WithGlobTick
variable {s : State} {g : Glob}

theorem tickAdvance_withGlob (h : SameReads s.g g) :
    tickAdvance (s.withGlob g) = (tickAdvance s).withGlob (globAfter .tick s.cfg g) := by
  refine State.ext_reads rfl (tickAdvance_g _) (fun c => ?_) (fun i => ?_) rfl rfl
  · rw [tickAdvance_chan, withGlob_chan, withGlob_chan, tickAdvance_chan]
  have hadvanced := h.globAfter_tick s.cfg
  rw [withGlob_oper, tickAdvance_oper, tickAdvance_oper, tickAdvance_g_eq_globAfter,
    tickAdvance_g_eq_globAfter, withGlob_g, withGlob_cfg, withGlob_oper, withGlob_chanAt,
    hadvanced.phaseStep, egStep_of_low15 (egCnt_succ_low15 h.egLow)]

/-! ## Step 4 of a TICK -/

theorem volOf_withGlob (h : SameReads s.g g) (i : Slot) : volOf (s.withGlob g) i = volOf s i := by
  simp only [volOf, withGlob_oper, withGlob_cfg, withGlob_chanAt, withGlob_g, h.lfoAm]

theorem operOutput_withGlob (h : SameReads s.g g) (i : Slot) (phase : BitVec 32) (pm : Int) :
    operOutput (s.withGlob g) i phase pm = operOutput s i phase pm := by
  simp only [operOutput_eq_opCalc, volOf_withGlob h, withGlob_oper]

theorem modStep_withGlob (h : SameReads s.g g) (c : Channel) :
    (modStep (s.withGlob g) c).1 = (modStep s c).1.withGlob g := by
  have hout : modOutput (s.withGlob g) c = modOutput s c := operOutput_withGlob h _ _ _
  simp only [modStep, hout]
  rfl

theorem modSteps_withGlob (h : SameReads s.g g) (cs : List Channel) :
    modSteps cs (s.withGlob g) = (modSteps cs s).withGlob g := by
  induction cs generalizing s with
  | nil => rfl
  | cons c cs ih =>
    rw [modSteps_cons, modSteps_cons, modStep_withGlob h, ih]
    exact h

theorem channelOut_withGlob (h : SameReads s.g g) (c : Channel) :
    (channelOut (s.withGlob g) c).2 = (channelOut s c).2 := by
  simp only [channelOut_value, operOutput_withGlob h, withGlob_chan, withGlob_oper]

theorem rhythmOut_withGlob (h : SameReads s.g g) :
    (rhythmOut (s.withGlob g)).2 = (rhythmOut s).2 := by
  simp only [rhythmOut_value, bassDrum_value, highHat, snareDrum, tomTom, topCymbal, cymRes1, cymRes2,
    operOutput_withGlob h, withGlob_chan, withGlob_oper, withGlob_g, h.noiseBit]
  rfl

theorem mixAcc_withGlob (h : SameReads s.g g) :
    mixAcc (s.withGlob g) = ((mixAcc s).1.withGlob g, (mixAcc s).2) := by
  refine Prod.ext ?_ ?_
  · rw [mixAcc_state, mixAcc_state, withGlob_g, h.rhythm, modSteps_withGlob h]
  · simp only [mixAcc_value, withGlob_g, h.rhythm, channelOut_withGlob h, rhythmOut_withGlob h]

theorem execTick_withGlob (h : SameReads s.g g) {t : State} (hexec : execTick s = .next t) :
    execTick (s.withGlob g) = .next (t.withGlob (globAfter .tick s.cfg g)) := by
  cases (exec_tick s).symm.trans hexec
  have hmix := mixAcc_withGlob (s := tickAdvance s) (h.globAfter_tick s.cfg)
  simp only [exec_tick, tickAdvance_withGlob h, step4Output, hmix]
  rfl

end WithGlobTick

/-! ## One instruction -/

/-- An instruction that starts from another global record with the same reads leaves the same state but for that
record. -/
theorem exec_withGlob {i : Instr} {s t : State} {g : Glob} (h : SameReads s.g g)
    (hexec : exec i s = .next t) :
    exec i (s.withGlob g) = .next (t.withGlob (globAfter i s.cfg g)) := by
  cases i with
  | wrWs j v =>
    cases hgate : s.g.wavesel with
    | false =>
      cases (exec_wrWs_of_gate_clear hgate j v).symm.trans hexec
      exact exec_wrWs_of_gate_clear (h.wavesel.trans hgate) j v
    | true =>
      cases (exec_wrWs_of_gate_set hgate j v).symm.trans hexec
      exact exec_wrWs_of_gate_set (h.wavesel.trans hgate) j v
  | wrFnuml c v =>
    cases hexec
    simp only [exec, execWrFnuml, withGlob_g, h.freqUpdate]
    rfl
  | wrKbf c v =>
    cases hexec
    simp only [exec, execWrKbf, withGlob_g, h.freqUpdate]
    rfl
  | tick => exact execTick_withGlob h hexec
  | _ => cases hexec; rfl

theorem exec_g {i : Instr} {s t : State} (hexec : exec i s = .next t) :
    t.g = globAfter i s.cfg s.g := by
  have hself : SameReads s.g s.g := ⟨rfl, rfl, rfl, rfl, rfl, rfl, rfl, rfl, rfl⟩
  have hsame := hexec.symm.trans (exec_withGlob hself hexec)
  injection hsame with hsame
  rw [hsame]
  rfl

/-- Noninterference: a relation of global records that implies the same reads, and that every instruction's effect on
the global record keeps, is kept by every instruction, with all else equal. -/
theorem exec_keeps_globRelation {R : Glob → Glob → Prop} (hreads : ∀ g h, R g h → SameReads g h)
    (hkeeps : ∀ i cfg g h, R g h → R (globAfter i cfg g) (globAfter i cfg h)) (i : Instr) (s : State)
    {g : Glob} (h : R s.g g) :
    ∃ t g', exec i s = .next t ∧ exec i (s.withGlob g) = .next (t.withGlob g') ∧ R t.g g' := by
  obtain ⟨t, hexec⟩ := exec_completes i s
  refine ⟨t, _, hexec, exec_withGlob (hreads _ _ h) hexec, ?_⟩
  rw [exec_g hexec]
  exact hkeeps i s.cfg _ _ h

theorem eq_withGlob {s t : State} (hhost : SameHostSide s t) (hch : t.ch = s.ch) (hop : t.op = s.op) :
    t = s.withGlob t.g := by
  obtain ⟨cfg, g, ch, op, pending, observed⟩ := t
  obtain ⟨hcfg, hpending, hobserved⟩ := hhost
  subst hcfg hpending hobserved hch hop
  rfl

end Sys2Proof.Machine

namespace Sys2Proof

open Sys2Proof.Machine

/-! ## The unread fields (R144, R272) -/

/-- The clause of `SameReadFields` on the global record. -/
def SameReadGlob (g h : Glob) : Prop :=
  h.mode.getLsbD 6 = g.mode.getLsbD 6 ∧
    ∃ t1 t2 tctl status rkeys mode,
      h = { g with t1 := t1, t2 := t2, tctl := tctl, status := status, rkeys := rkeys, mode := mode }

theorem sameReadFields_iff {s t : State} :
    SameReadFields s t ↔ ∃ g, SameReadGlob s.g g ∧ t = s.withGlob g := by
  constructor
  · rintro ⟨hhost, hch, hop, hmode, hg⟩
    exact ⟨t.g, ⟨hmode, _, _, _, _, _, _, hg⟩, eq_withGlob hhost hch hop⟩
  · rintro ⟨_, ⟨hmode, t1, t2, tctl, status, rkeys, mode, rfl⟩, rfl⟩
    exact ⟨⟨rfl, rfl, rfl⟩, rfl, rfl, hmode, rfl⟩

theorem SameReadGlob.sameReads {g h : Glob} (hr : SameReadGlob g h) : SameReads g h := by
  obtain ⟨hmode, t1, t2, tctl, status, rkeys, mode, rfl⟩ := hr
  exact ⟨rfl, hmode, rfl, rfl, rfl, rfl, rfl, rfl, rfl⟩

/-- No rule moves an unread field into another one. -/
theorem SameReadGlob.globAfter (i : Instr) (cfg : Config) {g h : Glob} (hr : SameReadGlob g h) :
    SameReadGlob (Machine.globAfter i cfg g) (Machine.globAfter i cfg h) := by
  obtain ⟨hmode, t1, t2, tctl, status, rkeys, mode, rfl⟩ := hr
  cases i with
  | wrTctl v =>
    simp only [Machine.globAfter, timerControl]
    cases fieldIrqReset v <;> exact ⟨hmode, _, _, _, _, _, _, rfl⟩
  | wrMode | reset => exact ⟨rfl, _, _, _, _, _, _, rfl⟩
  | _ => exact ⟨hmode, _, _, _, _, _, _, rfl⟩

/-- Settles O52: the unread fields are none of `SameReads`, and an instruction that writes one of them writes a value
of its operands or leaves it. -/
theorem unreadFieldsNeverReachTheOutput : Obligations.UnreadFieldsNeverReachTheOutput := by
  intro i s t h
  obtain ⟨g, hg, rfl⟩ := sameReadFields_iff.1 h
  obtain ⟨s', g', hs, ht, hg'⟩ := exec_keeps_globRelation (R := SameReadGlob)
    (fun _ _ => SameReadGlob.sameReads) (fun i cfg _ _ => SameReadGlob.globAfter i cfg) i s hg
  exact ⟨s', _, hs, ht, sameReadFields_iff.2 ⟨g', hg', rfl⟩⟩

/-! ## Bits 31:15 of the envelope counter (R278) -/

/-- The clause of `SameEnvelopeCounterLow15` on the global record. -/
def SameCounterLow15 (g h : Glob) : Prop :=
  ∃ n : BitVec 32, n.toNat % 2 ^ 15 = g.egCnt.toNat % 2 ^ 15 ∧ h = { g with egCnt := n }

theorem sameEnvelopeCounterLow15_iff {s t : State} :
    SameEnvelopeCounterLow15 s t ↔ ∃ g, SameCounterLow15 s.g g ∧ t = s.withGlob g := by
  constructor
  · rintro ⟨hhost, hch, hop, hlow, hg⟩
    exact ⟨t.g, ⟨_, hlow, hg⟩, eq_withGlob hhost hch hop⟩
  · rintro ⟨_, ⟨n, hlow, rfl⟩, rfl⟩
    exact ⟨⟨rfl, rfl, rfl⟩, rfl, rfl, hlow, rfl⟩

theorem SameCounterLow15.sameReads {g h : Glob} (hr : SameCounterLow15 g h) : SameReads g h := by
  obtain ⟨n, hlow, rfl⟩ := hr
  exact ⟨rfl, rfl, rfl, rfl, rfl, hlow, rfl, rfl, rfl⟩

/-- Only TICK and RESET write the counter: one advances it, the other clears it. -/
theorem SameCounterLow15.globAfter (i : Instr) (cfg : Config) {g h : Glob} (hr : SameCounterLow15 g h) :
    SameCounterLow15 (Machine.globAfter i cfg g) (Machine.globAfter i cfg h) := by
  obtain ⟨n, hlow, rfl⟩ := hr
  cases i with
  | wrTctl v =>
    simp only [Machine.globAfter, timerControl]
    cases fieldIrqReset v <;> exact ⟨n, hlow, rfl⟩
  | tick => exact ⟨n + 1, egCnt_succ_low15 hlow, rfl⟩
  | reset => exact ⟨_, rfl, rfl⟩
  | _ => exact ⟨n, hlow, rfl⟩

/-- Settles O54: of the counter `SameReads` has only bits 14:0, which advance among themselves. -/
theorem envelopeCounterWrapChangesNoResult : Obligations.EnvelopeCounterWrapChangesNoResult := by
  intro i s t h
  obtain ⟨g, hg, rfl⟩ := sameEnvelopeCounterLow15_iff.1 h
  obtain ⟨s', g', hs, ht, hg'⟩ := exec_keeps_globRelation (R := SameCounterLow15)
    (fun _ _ => SameCounterLow15.sameReads) (fun i cfg _ _ => SameCounterLow15.globAfter i cfg) i s hg
  exact ⟨s', _, hs, ht, sameEnvelopeCounterLow15_iff.2 ⟨g', hg', rfl⟩⟩

end Sys2Proof
end

section
/-! PROOF. Reset and silence: the reset record meets every invariant, and a silent state stays silent, with a TICK's
output 0, until a key-on (R290 to R293). -/

namespace Sys2Proof.Machine

/-! ## The state after RESET (R290, R293) -/

/-- RESET leaves nothing of the unit's own fields. -/
theorem withUnitReset_twice (s : State) : s.withUnitReset.withUnitReset = s.withUnitReset := rfl

/-- R293: the creation state is what RESET leaves under the same parameters and the same host side. -/
theorem withUnitReset_eq_reset {s : State} (hcfg : s.cfg = State.reset.cfg) (hpending : s.pending = [])
    (hobserved : s.observed = []) : s.withUnitReset = State.reset := by
  obtain ⟨cfg, g, ch, op, pending, observed⟩ := s
  subst hcfg hpending hobserved
  rfl

end Sys2Proof.Machine

namespace Sys2Proof

open Sys2Proof.Machine

/-! ## Silence, operator by operator (R187, R292) -/

/-- One operator's clause of `Silent`. -/
def SilentOper (o : Oper) : Prop := o.eg = .off ∧ o.vol = 511#9 ∧ o.o0 = 0 ∧ o.o1 = 0

theorem silent_iff (s : State) : Silent s ↔ ∀ k, SilentOper (s.oper k) := .rfl

theorem SilentOper.reset : SilentOper Oper.reset := ⟨rfl, rfl, rfl, rfl⟩

theorem SilentOper.of_sameDynamic {o o' : Oper} (h : SilentOper o) (hd : SameDynamic o o') :
    SilentOper o' := by
  obtain ⟨-, heg, hvol, -, h0, h1⟩ := hd
  simpa only [SilentOper, heg, hvol, h0, h1] using h

/-- A key-off finds nothing above REL to release. -/
theorem SilentOper.keyOff (b : BitVec 2) {o : Oper} (h : SilentOper o) :
    SilentOper (keyTo false b o) := by
  obtain ⟨heg, hvol, h0, h1⟩ := h
  refine ⟨?_, (keyTo_vol ..).trans hvol, (keyTo_o0 ..).trans h0, (keyTo_o1 ..).trans h1⟩
  have hrank := egRank_keyTo_false_le b o
  rw [heg] at hrank
  cases hk : (keyTo false b o).eg with
  | off => rfl
  | _ => rw [hk] at hrank; exact absurd hrank (by decide)

/-- Neither the envelope step nor the phase step touches what makes an operator silent. -/
theorem SilentOper.advance (n : BitVec 32) (g : Glob) (c : Chan) {o : Oper} (h : SilentOper o) :
    SilentOper (phaseStep g c (egStep n c o)) := by
  rw [egStep_of_off n c o h.1]
  exact h

theorem Silent.tickAdvance {s : State} (h : Silent s) : Silent (Machine.tickAdvance s) := by
  rw [silent_iff] at h ⊢
  intro k
  rw [tickAdvance_oper]
  exact (h k).advance _ _ _

/-! ## Silence in step 4 (R218) -/

/-- Maximum attenuation is above the quiet limit. -/
theorem Silent.operOutput {s : State} (h : Silent s) (i : Slot) (phase : BitVec 32) (pm : Int) :
    Machine.operOutput s i phase pm = 0 := by
  obtain ⟨-, hvol, -⟩ := h i
  have hquiet : envQuiet ≤ volOf s i := by
    simp only [volOf, hvol, envQuiet, BitVec.toNat_ofNat]
    omega
  rw [operOutput_eq_opCalc, opCalc_of_quiet hquiet]

theorem Silent.modStep {s : State} (h : Silent s) (c : Channel) : Silent (Machine.modStep s c).1 := by
  rw [silent_iff] at h ⊢
  intro i
  rw [modStep_oper]
  split
  · obtain ⟨heg, hvol, -, h1⟩ := h i
    exact ⟨heg, hvol, h1, Silent.operOutput h _ _ _⟩
  · exact h i

theorem Silent.modSteps {s : State} (h : Silent s) (cs : List Channel) :
    Silent (Machine.modSteps cs s) := by
  induction cs generalizing s with
  | nil => exact h
  | cons c cs ih => exact ih (h.modStep c)

theorem Silent.channelOut {s : State} (h : Silent s) (c : Channel) :
    (Machine.channelOut s c).2 = 0 := by
  obtain ⟨-, -, -, h1⟩ := h (op1Of c)
  simp [channelOut_value, h.operOutput, h1]

theorem Silent.rhythmOut {s : State} (h : Silent s) : (Machine.rhythmOut s).2 = 0 := by
  simp [rhythmOut_value, bassDrum_value, highHat, snareDrum, tomTom, topCymbal, h.operOutput]

theorem Silent.mixAcc_value {s : State} (h : Silent s) : (mixAcc s).2 = 0 := by
  simp [Machine.mixAcc_value, h.channelOut, h.rhythmOut]

theorem Silent.mixAcc_state {s : State} (h : Silent s) : Silent (mixAcc s).1 := by
  rw [Machine.mixAcc_state]
  exact h.modSteps _

/-! ## Silence over one instruction (R292) -/

/-- A TICK from silence is silent and returns (0, 0). -/
theorem Silent.execTick {s t : State} (h : Silent s) (hexec : execTick s = .next t) :
    Silent t ∧ t.observed = s.observed ++ [⟨0, 0⟩] := by
  obtain ⟨-, -, hobserved⟩ := execTick_hostSide hexec
  rw [h.tickAdvance.mixAcc_value] at hobserved
  refine ⟨?_, hobserved⟩
  cases (exec_tick s).symm.trans hexec
  exact h.tickAdvance.mixAcc_state

/-- A register write or a RESET that keys nothing on keeps an operator silent. -/
theorem OperChange.silent {s t : State} {k : Slot} {i : Instr} (h : OperChange s t k i)
    (hi : i ≠ .tick) (hkey : keysOn k i = false) (hs : SilentOper (s.oper k)) :
    SilentOper (t.oper k) := by
  cases h with
  | params _ _ hd => exact hs.of_sameDynamic hd
  | keyed _ b _ e =>
    rw [e, hkey]
    exact hs.keyOff b
  | ticked e _ => exact absurd e hi
  | wasReset _ e =>
    rw [e]
    exact .reset

theorem silent_withUnitReset (s : State) : Silent s.withUnitReset := by
  rw [silent_iff]
  intro k
  rw [withUnitReset_oper]
  exact .reset

/-- Settles O51: RESET by the reset record, TICK by `Silent.execTick`, and the writes operator by operator with
`OperChange.silent`. -/
theorem silenceLastsUntilKeyOn : Obligations.SilenceLastsUntilKeyOn := by
  refine ⟨fun s => ⟨_, rfl, silent_withUnitReset s⟩, fun i s hs hkey => ?_⟩
  obtain ⟨t, hexec⟩ := exec_completes i s
  by_cases hi : i = .tick
  · subst hi
    obtain ⟨ht, hobserved⟩ := hs.execTick hexec
    exact ⟨t, hexec, ht, fun _ => hobserved⟩
  · exact ⟨t, hexec, fun k => (exec_operChange hexec k).silent hi (hkey k) (hs k),
      fun htick => absurd htick hi⟩

/-! ## RESET (R290) -/

/-- Settles O1: the record updates of RESET, and the first TICK, which is one from silence with every counter at
0. -/
theorem resetInstructionInstallsResetColumns : Obligations.ResetInstructionInstallsResetColumns := by
  intro s
  obtain ⟨u, hexec, hg, -⟩ := execTick_global s.withUnitReset
  obtain ⟨-, hobserved⟩ := (silent_withUnitReset s).execTick hexec
  rw [tickAdvance_g] at hg
  refine ⟨_, rfl, rfl, withUnitReset_chan s, withUnitReset_oper s, ⟨rfl, rfl, rfl⟩,
    congrArg Host.Outcome.next (withUnitReset_twice s), u, hexec, hobserved, ?_⟩
  rw [hg]
  refine ⟨rfl, rfl, rfl, fun hmask hseed => ?_⟩
  have hnoise : noiseShift s.cfg.noiseMask s.cfg.noiseSeed = 0x400181#23 := by
    rw [hmask, hseed]
    decide
  exact hnoise

/-- Settles O2: `withUnitReset_eq_reset`, and the defaults of R9. -/
theorem creationStateIsResetState : Obligations.CreationStateIsResetState :=
  ⟨rfl, rfl, rfl, rfl, fun _ hcfg hpending hobserved =>
    congrArg Host.Outcome.next (withUnitReset_eq_reset hcfg hpending hobserved)⟩

/-! ## The invariants at reset (R38, R291) -/

/-- A predicate of operators that the reset record meets holds of every operator of the reset state. -/
theorem reset_opers {P : Oper → Prop} (h : P Oper.reset) (i : Slot) : P (State.reset.oper i) := by
  rw [reset_oper]
  exact h

/-- Settles O55: the operator invariants by the reset record, the global ones by the reset column of R24. -/
theorem resetStateMeetsInvariants : Obligations.ResetStateMeetsInvariants := by
  refine ⟨reset_opers KeyPhaseAgree.reset, reset_opers (P := DecayBelow) nofun, fun i => ?_,
    ⟨rfl, rfl⟩, ⟨by decide, by decide, by decide⟩, reset_opers SilentOper.reset⟩
  rw [reset_oper]
  simp [Oper.reset, InOutputRange]

end Sys2Proof
end

section
/-! PROOF. The wave tables: the log-sine by quarters, the waveforms in terms of it, the exponential table with its
sign bit, and OPCALC at the index it reads (R212, R237, R251, R252). -/

namespace Sys2Proof.Machine

/-! ## The log-sine and the waveforms (R251) -/

/-- The first half wave is a quarter forwards, then backwards. -/
theorem s0_lower {i : Nat} (h : i < 512) : s0 i = 2 * sinMag (if i < 256 then i else 511 - i) := by
  simp only [s0, Nat.mod_eq_of_lt h, if_neg (Nat.not_le.2 h), Nat.add_zero]

/-- The second half wave differs in the sign bit alone. -/
theorem s0_add_half {i : Nat} (h : i < 512) : s0 (i + 512) = s0 i + 1 := by
  have hj : (i + 512) % 512 = i % 512 := by omega
  simp only [s0, hj, if_pos (Nat.le_add_left 512 i), if_neg (Nat.not_le.2 h), Nat.add_zero]

/-- S0 by quarters. -/
theorem s0_eq {i : Nat} (h : i < 1024) :
    s0 i =
      if i < 256 then 2 * sinMag i else if i < 512 then 2 * sinMag (511 - i)
      else if i < 768 then 2 * sinMag (i - 512) + 1 else 2 * sinMag (1023 - i) + 1 := by
  by_cases hlow : i < 512
  · rw [s0_lower hlow, if_pos hlow]
    split <;> rfl
  · obtain ⟨j, rfl⟩ : ∃ j, i = j + 512 := ⟨i - 512, by omega⟩
    have hback : 1023 - (j + 512) = 511 - j := by omega
    have hfirst : ¬ j + 512 < 256 := by omega
    have hquarter : j + 512 < 768 ↔ j < 256 := by omega
    rw [s0_add_half (by omega), s0_lower (by omega), if_neg hfirst, if_neg hlow, hback,
      Nat.add_sub_cancel]
    simp only [hquarter]
    split <;> rfl

theorem s0_mirror {i : Nat} (h : i < 512) : s0 i = s0 (511 - i) := by
  have hback : 511 - (511 - i) = i := by omega
  have hquarter : 511 - i < 256 ↔ ¬ i < 256 := by omega
  rw [s0_lower h, s0_lower (by omega), hback]
  simp only [hquarter, ite_not]

theorem s0_even {i : Nat} (h : i < 512) : s0 i % 2 = 0 := by
  rw [s0_lower h]
  exact Nat.mul_mod_right ..

theorem s0_peak : s0 512 = 4275 := by decide

theorem s0_le_peak (i : Nat) : s0 i ≤ s0 512 := by
  rw [s0_peak]
  exact s0_le i

theorem sinTab_sine (i : Nat) : sinTab 0#2 i = s0 i := rfl

theorem sinTab_half {i : Nat} (h : i < 1024) : sinTab 1#2 i = if i < 512 then s0 i else 6144 := by
  have hform : sinTab 1#2 i = if i / 512 % 2 = 1 then 6144 else s0 i := rfl
  have hhalf : i / 512 % 2 = 1 ↔ ¬ i < 512 := by omega
  simp only [hform, hhalf, ite_not]

theorem sinTab_absolute {i : Nat} (h : i < 1024) :
    sinTab 2#2 i = if i < 512 then s0 i else s0 (i - 512) := by
  have hj : i % 512 = if i < 512 then i else i - 512 := by split <;> omega
  simp [sinTab, hj, apply_ite s0]

/-- The pulses are the first quarter of S0, twice. -/
theorem sinTab_pulse {i : Nat} (h : i < 1024) :
    sinTab 3#2 i =
      if i < 256 then s0 i else if i < 512 then 6144
      else if i < 768 then s0 (i - 512) else 6144 := by
  have hform : sinTab 3#2 i = if i / 256 % 2 = 1 then 6144 else s0 (i % 256) := rfl
  rw [hform]
  by_cases h1 : i < 256
  · rw [if_neg (by omega), if_pos h1, Nat.mod_eq_of_lt h1]
  rw [if_neg h1]
  by_cases h2 : i < 512
  · rw [if_pos (by omega), if_pos h2]
  rw [if_neg h2]
  by_cases h3 : i < 768
  · have hj : i % 256 = i - 512 := by omega
    rw [if_neg (by omega), if_pos h3, hj]
  · rw [if_pos (by omega), if_neg h3]

/-! ## The exponential table (R252) -/

theorem tlTab_eq (p : Nat) :
    tlTab p =
      if p % 2 = 0 then ((tlBase (p % 512 / 2) / 2 ^ (p / 512) : Nat) : Int)
      else -((tlBase (p % 512 / 2) / 2 ^ (p / 512) : Nat) : Int) := by
  unfold tlTab
  rw [Nat.shiftRight_eq_div_pow]
  rcases Nat.mod_two_eq_zero_or_one p with h | h <;> simp [h]

/-- In its domain the table is shifted by at most 11 bits, and its base has 12. -/
theorem tlTab_magnitude_pos {p : Nat} (h : p < 6144) : 0 < tlBase (p % 512 / 2) / 2 ^ (p / 512) := by
  have hbase := (tlBase_range (p % 512 / 2) (by omega)).1
  have hshift : 2 ^ (p / 512) ≤ 2 ^ 11 := Nat.pow_le_pow_right (by decide) (by omega)
  exact Nat.div_pos (by omega) (Nat.two_pow_pos _)

theorem tlTab_ne_zero {p : Nat} (h : p < 6144) : tlTab p ≠ 0 := by
  have hpos := tlTab_magnitude_pos h
  rw [tlTab_eq]
  split <;> omega

/-- Bit 0 of the index is the sign. -/
theorem tlTab_succ {p : Nat} (h : p % 2 = 0) : tlTab (p + 1) = -tlTab p := by
  have hbase : (p + 1) % 512 / 2 = p % 512 / 2 := by omega
  have hshift : (p + 1) / 512 = p / 512 := by omega
  rw [tlTab_eq, tlTab_eq, hbase, hshift, if_pos h, if_neg (by omega)]

/-! ## OPCALC (R212) -/

theorem waveIndex_cast (phase : BitVec 32) (pm : Int) :
    (waveIndex phase pm : Int) = ((phase.toNat / 65536 : Nat) + pm) % 1024 :=
  Int.toNat_of_nonneg (Int.emod_nonneg _ (by decide))

theorem opCalc_at (phase : BitVec 32) (env : Nat) (pm : Int) (w : BitVec 2) :
    opCalc phase env pm w =
      if 6144 ≤ env * 16 + sinTab w (waveIndex phase pm) then 0
      else tlTab (env * 16 + sinTab w (waveIndex phase pm)) := rfl

theorem opCalc_of_waveIndex {a b : BitVec 32} {x y : Int} (h : waveIndex a x = waveIndex b y)
    (env : Nat) (w : BitVec 2) : opCalc a env x w = opCalc b env y w := by
  rw [opCalc_at, opCalc_at, h]

theorem waveIndex_wrap (phase : BitVec 32) (pm : Int) :
    waveIndex phase (pm + 1024) = waveIndex phase pm := by
  have h := waveIndex_cast phase (pm + 1024)
  rw [← Int.add_assoc, Int.add_emod_right, ← waveIndex_cast] at h
  exact_mod_cast h

/-- Bits 25:16 of a phase are the low ten bits of its upper half. -/
theorem waveIndex_of_field {a b : BitVec 32} (h : a.extractLsb' 16 10 = b.extractLsb' 16 10) (pm : Int) :
    waveIndex a pm = waveIndex b pm := by
  have hfield := congrArg BitVec.toNat h
  rw [toNat_field, toNat_field] at hfield
  have hindex := waveIndex_cast a pm
  have hindex' := waveIndex_cast b pm
  omega

theorem waveIndex_mask (phase : BitVec 32) (pm : Int) :
    waveIndex (phase &&& 0x03FF0000#32) pm = waveIndex phase pm := by
  refine waveIndex_of_field ?_ pm
  have hmask : (0x03FF0000#32).extractLsb' 16 10 = BitVec.allOnes 10 := by decide
  rw [BitVec.extractLsb'_and, hmask, BitVec.and_allOnes]

/-- At waveform 0 the two indices of the top-cymbal are where S0 has magnitude 0, without and with its sign bit
(R237). -/
theorem opCalc_sine_peaks {env : Nat} (h : env < 384) :
    opCalc 0x01000000#32 env 0 0#2 = tlTab (env * 16) ∧
      opCalc 0x03000000#32 env 0 0#2 = -tlTab (env * 16) := by
  have hpos : sinTab 0#2 (waveIndex 0x01000000#32 0) = 0 := by decide
  have hneg : sinTab 0#2 (waveIndex 0x03000000#32 0) = 1 := by decide
  rw [opCalc_at, opCalc_at, hpos, hneg, if_neg (by omega), if_neg (by omega),
    tlTab_succ (by omega)]
  exact ⟨rfl, rfl⟩

end Sys2Proof.Machine

namespace Sys2Proof

open Sys2Proof.Machine

/-- Settles O42: the waveforms by quarters, the exponential table by its sign bit, OPCALC by its waveform index, and
the peaks of the sine by `opCalc_sine_peaks`. -/
theorem waveTablesMeetTheirChecks : Obligations.WaveTablesMeetTheirChecks := by
  refine ⟨fun i h => ⟨sinTab_sine i, sinTab_half h, sinTab_absolute h, sinTab_pulse h, s0_eq h⟩,
    fun p _ => tlTab_eq p, fun phase env pm w => ⟨fun i _ hi => ?_, ?_, ?_⟩,
    by decide, by decide, by decide, fun i h => ⟨s0_mirror h, s0_add_half h, s0_even h⟩,
    fun i _ => s0_le_peak i, s0_peak, sinTab_le, fun p h => ⟨tlTab_ne_zero h, tlTab_succ⟩,
    fun env h => opCalc_sine_peaks h⟩
  · have hindex : waveIndex phase pm = i := by
      have hcast := (waveIndex_cast phase pm).trans hi.symm
      exact_mod_cast hcast
    rw [opCalc_at, hindex]
    exact ⟨fun hquiet => if_pos hquiet, fun hloud => if_neg (Nat.not_le.2 hloud)⟩
  · exact opCalc_of_waveIndex (waveIndex_wrap phase pm) env w
  · exact opCalc_of_waveIndex (waveIndex_mask phase pm) env w

end Sys2Proof
end

section
/-! PROOF. What a host relies on: the two frequency writes in either order, retriggering, the instant attack of a
key-on, and its own duty in rhythm mode (R302 to R304, R306). -/

namespace Sys2Proof.Machine

/-! ## Frequency writes (R122, R302) -/

theorem setBlockFnumHigh_setFnumLow (lo hi : Byte) (bf : BitVec 13) :
    setBlockFnumHigh hi (setFnumLow lo bf) = setFnumLow lo (setBlockFnumHigh hi bf) := by
  apply BitVec.eq_of_toNat_eq
  have := lo.isLt
  simp only [setBlockFnumHigh_toNat, setFnumLow_toNat]
  omega

/-- An intermediate value leaves no trace where it changes nothing or the final value differs from the first, for
then the last change latches the final value's key code. -/
theorem freqUpdate_twice (mode : Byte) {mid last : BitVec 13} {c : Chan}
    (h : mid = c.blockFnum ∨ last ≠ c.blockFnum) :
    freqUpdate mode last (freqUpdate mode mid c) = freqUpdate mode last c := by
  by_cases hmid : mid = c.blockFnum
  · rw [freqUpdate_of_same mode hmid]
  · have hlast := h.resolve_left hmid
    rw [freqUpdate_of_change mode hmid, freqUpdate_of_change mode hlast]
    by_cases hsame : last = mid
    · subst hsame
      exact freqUpdate_of_same mode rfl
    · exact freqUpdate_of_change mode hsame

/-- The two writes set bits of their own, so the final value is the first one only where neither changes anything. -/
theorem freqParts_of_fixed {lo hi : Byte} {bf : BitVec 13}
    (h : setBlockFnumHigh hi (setFnumLow lo bf) = bf) :
    setFnumLow lo bf = bf ∧ setBlockFnumHigh hi bf = bf := by
  have hlo := lo.isLt
  rw [← BitVec.toNat_inj, setBlockFnumHigh_toNat, setFnumLow_toNat] at h
  rw [← BitVec.toNat_inj, ← BitVec.toNat_inj, setFnumLow_toNat, setBlockFnumHigh_toNat]
  omega

theorem freqUpdate_low_high (mode : Byte) (lo hi : Byte) (c : Chan) :
    freqUpdate mode (setBlockFnumHigh hi (setFnumLow lo c.blockFnum))
        (freqUpdate mode (setFnumLow lo c.blockFnum) c) =
      freqUpdate mode (setFnumLow lo (setBlockFnumHigh hi c.blockFnum))
        (freqUpdate mode (setBlockFnumHigh hi c.blockFnum) c) := by
  rw [← setBlockFnumHigh_setFnumLow]
  by_cases hlast : setBlockFnumHigh hi (setFnumLow lo c.blockFnum) = c.blockFnum
  · obtain ⟨hlow, hhigh⟩ := freqParts_of_fixed hlast
    rw [freqUpdate_twice mode (.inl hlow), freqUpdate_twice mode (.inl hhigh)]
  · rw [freqUpdate_twice mode (.inr hlast), freqUpdate_twice mode (.inr hlast)]

/-! ## The channel key write on one of its slots (R121) -/

theorem exec_wrKbf_oper {c : Channel} {v : Byte} {s t : State} (h : exec (.wrKbf c v) s = .next t)
    {k : Slot} (hk : chanOf k = c) :
    t.oper k = keyTo (fieldKeyOn v) melodicKey (s.oper k) := by
  cases h
  rw [modChan_oper, modBothSlots_oper, if_pos hk]

/-- A key-off of the melodic bit clears a latch that no rhythm key holds. -/
theorem melodic_keyOff_clears {o : Oper} (h : o.key.getLsbD 1 = false) :
    (keyTo false melodicKey o).key = 0#2 := by
  have key : ∀ x : BitVec 2, x.getLsbD 1 = false → x &&& ~~~melodicKey = 0#2 := by decide
  exact (keyTo_key ..).trans (key _ h)

/-! ## The instant attack (R183, R306) -/

/-- Eight eighths of the complement take any attenuation below 0. -/
theorem attackLevel_eight (vol : Nat) : attackLevel vol 8 = -1 := by
  unfold attackLevel
  omega

theorem egStep_of_instant_attack (n : BitVec 32) {c : Chan} {o : Oper} (he : o.eg = .att)
    (h : 78 ≤ rateIndex o.ar (ksrv c o)) : egStep n c o = { o with vol := 0#9, eg := .dec } := by
  rw [egStep_of_attack he (stepDue_of_instant_attack n h), attackLevel_eight, if_pos (by decide)]

end Sys2Proof.Machine

namespace Sys2Proof

open Sys2Proof.Machine

/-- Settles O46: the envelope step of a TICK is the instant attack's. -/
theorem instantAttackReachesFullLevelInOneTick : Obligations.InstantAttackReachesFullLevelInOneTick := by
  intro s k he hrate
  obtain ⟨t, hexec, -, hstep⟩ := tickStepsEveryEnvelope s
  refine ⟨t, hexec, ?_⟩
  rw [hstep k, egStep_of_instant_attack _ he hrate]
  exact ⟨rfl, rfl⟩

/-- Settles O48: the key action reaches only operators, which WR_FNUML leaves, and the channel's two updates commute by
`freqUpdate_low_high`. -/
theorem frequencyWritesCommute : Obligations.FrequencyWritesCommute := by
  intro c lo hi s
  refine ⟨_, _, _, rfl, rfl, rfl, ?_, ?_⟩
  · refine congrArg Host.Outcome.next (State.ext_reads rfl rfl (fun d => ?_) (fun _ => ?_) rfl rfl)
    · by_cases hd : d = c
      · subst hd
        simp [freqUpdate_low_high]
      · simp [modChan_chan, hd]
    · simp [modOper_oper]
  · have := lo.isLt
    rw [modChan_chan_self, freqUpdate_blockFnum, setBlockFnumHigh_toNat]
    simp only [modOper_chan, modChan_chan_self, freqUpdate_blockFnum, setFnumLow_toNat]
    omega

/-- Settles O49: a key-on of a held latch only sets its bit; after a key-off the latch is clear, so the next key-on
restarts the slot. -/
theorem retriggerNeedsKeyOff : Obligations.RetriggerNeedsKeyOff := by
  intro c on off s k hon hoff hk
  obtain ⟨t, ht⟩ := exec_completes (.wrKbf c on) s
  obtain ⟨r, hr⟩ := exec_completes (.wrKbf c off) s
  obtain ⟨u, hu⟩ := exec_completes (.wrKbf c on) r
  have htk := exec_wrKbf_oper ht hk
  have hrk := exec_wrKbf_oper hr hk
  have huk := exec_wrKbf_oper hu hk
  rw [fieldKeyOn, hon] at htk huk
  rw [fieldKeyOn, hoff] at hrk
  refine ⟨fun hheld => ⟨t, ht, ?_⟩, fun hrhythm => ⟨r, u, hr, hu, ?_⟩⟩
  · rw [htk, keyTo, if_pos rfl, keyOn_of_held _ hheld]
    exact ⟨rfl, rfl, rfl⟩
  · have hclear := melodic_keyOff_clears hrhythm
    rw [huk, hrk, keyTo_of_clear true _ _ hclear]
    exact ⟨rfl, rfl, keyTo_vol .., rfl⟩

/-! ## The duty in rhythm mode (R304) -/

/-- A word is a channel key write exactly where it is that write's encoding: decoding and encoding are inverse. -/
theorem decode_eq_wrKbf_iff (cfg : Config) (w : CmdWord) (c : Channel) (v : Byte) :
    decode cfg (.write w) = .wrKbf c v ↔
      w = wordOf 0b101#3 (channelLow true (BitVec.ofNat 4 c.val)) v := by
  constructor
  · intro h
    have hword := (everyCommandWordHasOneMeaning cfg w).2
    rw [h] at hword
    injection hword with hword
    exact hword.symm
  · rintro rfl
    exact decodeEncodeRoundTrip cfg (.wrKbf c v) rfl

/-- The command word of a channel key write on numbers: bank 0 and address 0xB0 + c (R81). -/
theorem wrKbf_word_toNat (c : Channel) (v : Byte) :
    (wordOf 0b101#3 (channelLow true (BitVec.ofNat 4 c.val)) v).toNat =
      (0xB0 + c.val) * 256 + v.toNat := by
  rw [wordOf, commandWord_toNat, channelAddr_toNat]
  simp

/-- What the transcriber accepts lies in the operand domain, and becomes its command word (R271). -/
theorem domain_of_transcribe {bank addr data : Int} {cmd : Command}
    (h : transcribe (.write bank addr data) = .ok cmd) :
    0 ≤ bank ∧ (0 ≤ addr ∧ addr ≤ 255) ∧ (0 ≤ data ∧ data ≤ 255) ∧
      cmd = .write (commandWord (bank != 0) (BitVec.ofInt 8 addr) (BitVec.ofInt 8 data)) := by
  have hbank : 0 ≤ bank := by
    by_contra hb
    rw [transcribe_of_negative_bank (by omega)] at h
    cases h
  have haddr : 0 ≤ addr ∧ addr ≤ 255 := by
    by_contra ha
    rw [transcribe_of_bad_addr hbank (by omega)] at h
    cases h
  obtain ⟨ha, ha'⟩ := haddr
  have hdata : 0 ≤ data ∧ data ≤ 255 := by
    by_contra hd
    rw [transcribe_of_bad_data hbank ha ha' (by omega)] at h
    cases h
  obtain ⟨hd, hd'⟩ := hdata
  rw [transcribe_write_of_domain hbank ha ha' hd hd'] at h
  cases h
  exact ⟨hbank, ⟨ha, ha'⟩, ⟨hd, hd'⟩, rfl⟩

/-- Which operands a channel key write has. -/
theorem decode_operands_eq_wrKbf_iff (cfg : Config) {bank addr data : Int} (ha : 0 ≤ addr)
    (ha' : addr ≤ 255) (hd : 0 ≤ data) (hd' : data ≤ 255) (c : Channel) (v : Byte) :
    decode cfg (.write (commandWord (bank != 0) (BitVec.ofInt 8 addr) (BitVec.ofInt 8 data))) =
        .wrKbf c v ↔
      bank = 0 ∧ addr = 0xB0 + c.val ∧ data = v.toNat := by
  have hv := v.isLt
  rw [decode_eq_wrKbf_iff, ← BitVec.toNat_inj, commandWord_ofInt_toNat ha ha' hd hd',
    wrKbf_word_toNat]
  have hc := c.isLt
  by_cases hbank : bank = 0
  · rw [if_pos hbank]
    omega
  · rw [if_neg hbank]
    omega

theorem breaksRhythmDuty_iff (s : State) (bank addr data : Int) :
    breaksRhythmDuty s (.write bank addr data) = true ↔
      s.g.rhythm = true ∧ bank = 0 ∧ (0xB6 ≤ addr ∧ addr ≤ 0xB8) ∧ data / 32 % 2 = 1 := by
  have haddr : (addr = 0xB6 ∨ addr = 0xB7) ∨ addr = 0xB8 ↔ 0xB6 ≤ addr ∧ addr ≤ 0xB8 := by omega
  simp only [breaksRhythmDuty, Bool.and_eq_true, Bool.or_eq_true, beq_iff_eq, haddr, and_assoc]

/-- Settles O50: the operands that break the duty are those of a channel key write of channels 6 to 8 with bit 5 set;
the write sets the melodic bit of both latches, as it does without rhythm mode. -/
theorem rhythmDutyIsTheHostsAlone : Obligations.RhythmDutyIsTheHostsAlone := by
  refine ⟨fun s bank addr data cmd hcmd => ?_, fun s c v _ _ hv => ?_⟩
  · obtain ⟨-, ⟨ha, ha'⟩, ⟨hd, hd'⟩, rfl⟩ := domain_of_transcribe hcmd
    rw [breaksRhythmDuty_iff]
    refine and_congr_right fun _ => ?_
    simp only [decode_operands_eq_wrKbf_iff s.cfg ha ha' hd hd', getLsbD_iff]
    constructor
    · rintro ⟨hbank, ⟨hlow, hhigh⟩, hbit⟩
      have hbyte := toNat_ofInt_byte hd hd'
      exact ⟨⟨(addr - 0xB0).toNat, by omega⟩, BitVec.ofInt 8 data, by dsimp only; omega, by omega,
        hbank, by dsimp only; omega, by omega⟩
    · rintro ⟨c, v, hc, hbit, hbank, haddr, hdata⟩
      have := c.isLt
      exact ⟨hbank, by omega, by omega⟩
  · obtain ⟨t, hexec⟩ := exec_completes (.wrKbf c v) s
    refine ⟨t, hexec, fun k hk => ?_⟩
    rw [exec_wrKbf_oper hexec hk, keyTo_key, fieldKeyOn, hv]
    rfl

end Sys2Proof
end
